-- ==== Sys2Proof/Word.lean ====
section
/-! DEFINITION. The word types of the block (rules R6, R31, R39) and the pair of wires that one CLZ32 round hands
to the next (R44). -/

namespace Sys2Proof

/-- A 32-bit word: formats U32 and S32 of R31. Bit 0 is the least significant bit (R6). -/
abbrev Word := BitVec 32

/-- The 6-bit count word: format C6 of R31, values 0 to 32 (R39). -/
abbrev Count := BitVec 6

/-- A byte of host memory (R18: the host's memory is byte addressed). -/
abbrev Byte := BitVec 8

/-- The two wires between CLZ32's rounds: the running value `x_k` and the running width `n_k` (R43, R44). -/
structure Running where
  value : Word
  width : Count
  deriving DecidableEq, Repr

end Sys2Proof
end

