-- ==== Sys2Proof/Config.lean ====
section
/-! DEFINITION. The parameters of the block (R5) and its wired-in constants (R33). The two parameters the spec leaves
OPEN and that no step changes are opaque constants: nothing can be proved of their values. -/

namespace Sys2Proof

/-- The order of the four bytes of a stored word in host memory (R24). -/
inductive ByteOrder where
  | little   -- the least significant byte lies lowest
  | big      -- the most significant byte lies lowest
  deriving DecidableEq, Repr, Inhabited

/-- `W` of R5: the width in bits of `x`, `n` and `mask`. -/
def Config.wordWidth : Nat := 32

/-- `COUNT_W` of R5: the width in bits of `count`. -/
def Config.countWidth : Nat := 6

/-- `ROUNDS` of R5: CLZ32 has exactly five rounds. -/
def Config.rounds : Nat := 5

/-- `STRIDE(k)` of R5 and R33, for k = 1 to 5. No other k is a round; the value there is used nowhere. -/
def Config.stride : Nat → Nat
  | 1 => 16
  | 2 => 8
  | 3 => 4
  | 4 => 2
  | 5 => 1
  | _ => 0

/-- `N_INIT` of R33: the running width before round 1. -/
def Config.nInit : Count := 0b100000

/-- `WIDTH_TOTAL` of R33: the minuend of `w = 32 - cnt` (R60). -/
def Config.widthTotal : Count := 0b100000

/-- `ONE` of R33: the shifted value of R61 and the subtrahend of R62. -/
def Config.one : Word := 0x00000001

/-- `SM_OOD` of R5 and R63: what SMASK answers outside its defined domain. OPEN in the spec (D6), so a free value:
no body, a function of the word alone (R63 (b)). Log entry 3 (DESIGN CHOICE, safe). -/
opaque Config.smOod : Word → Word

/-- `HOST_BYTE_ORDER` of R5 and R24. OPEN in the spec (D16). Log entry 4 (DESIGN CHOICE, safe). -/
opaque Config.hostByteOrder : ByteOrder

end Sys2Proof
end

