-- ==== Sys2Proof/Syntax.lean ====
section
/-! DEFINITION. Syntax: the two operations of spec/opcode_table.json (R34), the ports that select them (R14, R15), the
word formats (R31), and the environment's lines (R37, R38, R23). -/

namespace Sys2Proof

/-- The operations of the block, one constructor per row of the opcode table (R34). The operand is the whole 32-bit
input word; no other field exists. -/
inductive Instr where
  | clz32 (x : Word)   -- CLZ32: count the leading zeros of the word on port x (R40)
  | smask (n : Word)   -- SMASK: the all-ones mask that covers the word on port n (R57)
  deriving DecidableEq, Repr

/-- The word formats of R31. -/
inductive WordFormat where
  | u32   -- unsigned 32-bit word
  | s32   -- two's complement 32-bit word
  | c6    -- 6-bit unsigned count
  deriving DecidableEq, Repr

/-- The input ports (R14, R15). Driving one selects its operation (R34). -/
inductive InPort where
  | x   -- CLZ32's input
  | n   -- SmallestMask's input
  deriving DecidableEq, Repr

/-- The output ports (R14, R15). -/
inductive OutPort where
  | count   -- CLZ32's output
  | mask    -- SmallestMask's output
  deriving DecidableEq, Repr

/-- What the environment presents to the block: a word on an input port. It takes the place of an instruction word
(R34: the selector has width zero, the port driven selects the operation). -/
structure Presentation where
  port : InPort
  word : Word
  deriving DecidableEq, Repr

/-- Why the numbered form of a presentation cannot be read (log entry 6): the block has no port of that number. -/
inductive DecodeError where
  | noSuchPort (number : Nat)
  deriving DecidableEq, Repr

/-- A name that a line binds (R37). The spec spells names with letters; the model numbers them (log entry 8). -/
abbrev Name := Nat

/-- An operand of a line: "a name bound by an earlier line or a literal" (R37). -/
inductive Operand where
  | lit (w : Word)
  | name (r : Name)
  deriving DecidableEq, Repr

/-- One line of the environment in the notation of R37, R38 and R23. A destination `none` means that the environment
leaves the output on its port and binds no name. -/
inductive Line where
  | clz32 (dest : Option Name) (op : Operand)    -- CLZ32  dest, op
  | smask (dest : Option Name) (op : Operand)    -- SMASK  dest, op
  | bitlen (dest : Option Name) (op : Operand)   -- BITLEN dest, op (R38)
  | store (offset : Nat) (src : Name)            -- STORE  offset, src: MemWrite(OUT_BASE + offset, 4, src)
  deriving DecidableEq, Repr

/-- The lines the environment performs, in order (R22, R28). -/
abbrev Script := List Line

end Sys2Proof
end

