-- ==== Sys2Proof/Decode.lean ====
section
/-! DEFINITION. Decoding and encoding. The operation is chosen by the port driven, and the whole word is its operand
(R34), so decoding a presentation is total and refuses nothing (R36). For the host's table words a presentation is also
written as one number: the operand word in bits 31..0, as the opcode table numbers them, and above it the number of the
port driven. That port number is the model's notation, no bit of the hardware (log entry 6). -/

namespace Sys2Proof

/-- The format of the word on an input port (R14, R15, R31). -/
def inPortFormat : InPort → WordFormat
  | .x => .u32
  | .n => .s32

/-- The output port that answers an input port (R34). -/
def answeringPort : InPort → OutPort
  | .x => .count
  | .n => .mask

/-- The format of the word on an output port (R14, R15, R31). -/
def outPortFormat : OutPort → WordFormat
  | .count => .c6
  | .mask => .u32

/-- The width in bits of a word format (R31). -/
def formatWidth : WordFormat → Nat
  | .u32 => Config.wordWidth
  | .s32 => Config.wordWidth
  | .c6 => Config.countWidth

/-- The operation that a word on an input port asks for (R34). Every word on either port is an operand (R35, R36). -/
def decode (p : Presentation) : Instr :=
  match p.port with
  | .x => .clz32 p.word
  | .n => .smask p.word

/-- The port to drive and the word to put there for an operation (R34). -/
def encode : Instr → Presentation
  | .clz32 x => ⟨.x, x⟩
  | .smask n => ⟨.n, n⟩

/-- The model's number for an input port (log entry 6): the order of the opcode table's rows. -/
def portNumber : InPort → Nat
  | .x => 0
  | .n => 1

/-- The port of a number; any other number is rejected by name. -/
def portOfNumber : Nat → Except DecodeError InPort
  | 0 => .ok .x
  | 1 => .ok .n
  | k => .error (.noSuchPort k)

/-- The presentation a number stands for: operand word in bits 31..0, port number above. -/
def presentationOfBits (bits : Nat) : Except DecodeError Presentation :=
  match portOfNumber (bits / 2 ^ 32) with
  | .ok p => .ok ⟨p, BitVec.ofNat 32 bits⟩
  | .error e => .error e

/-- The instruction a number stands for. -/
def decodeBits (bits : Nat) : Except DecodeError Instr :=
  match presentationOfBits bits with
  | .ok p => .ok (decode p)
  | .error e => .error e

/-- The number that stands for an instruction. -/
def encodeBits (i : Instr) : Nat :=
  portNumber (encode i).port * 2 ^ 32 + (encode i).word.toNat

/-- The line that presents a word to a port and binds no name. -/
def lineOfPresentation (p : Presentation) : Line :=
  match p.port with
  | .x => .clz32 none (.lit p.word)
  | .n => .smask none (.lit p.word)

/-- The line that presents a table word, if the word names a port. Bits at nbits and above are 0. -/
def lineOfTableWord (nbits w : Nat) : Option Line :=
  match presentationOfBits (w % 2 ^ nbits) with
  | .ok p => some (lineOfPresentation p)
  | .error _ => none

/-- The instruction the decoder reads from a table word of `nbits` bits. Both rows of the table have 32 bits, no fixed
bit, and so the same words (R34): a 32-bit word alone says nothing of the port, and is read as a word on port x,
number 0 (log entry 6). With the port number 1 in bit 32 it is a word on port n. -/
def decodeTableWord (nbits w : Nat) : Option Instr :=
  match decodeBits (w % 2 ^ nbits) with
  | .ok i => some i
  | .error _ => none

end Sys2Proof
end

