-- ==== Sys2Proof/Machine/Flags.lean ====
section
/-! DEFINITION. One-bit conditions. The block has no status flag and no operation sets one (R13); these are the one-bit
values its rules compute on the way. -/

namespace Sys2Proof.Machine

/-- `a != 0` of R7: 1 when any bit is 1. -/
def nonzero (a : Word) : Bool :=
  a != 0

/-- Whether `n` is in SMASK's defined domain: `(n[31] == 0) and (n != 0)` (R63, R72). No port carries it. -/
def inDomain (n : Word) : Bool :=
  n.getLsbD 31 == false && nonzero n

end Sys2Proof.Machine
end

