-- ==== Sys2Proof/Machine/State.lean ====
section
/-! DEFINITION. The state, the reasons a step can stop, and the state after reset. The block itself holds nothing (R11,
R16); what is held here is the words on its four ports (R14, R15) and the environment's data (R22 to R28, R37), log
entry 1. -/

namespace Sys2Proof.Machine

/-- Host memory: bytes by address, in the canonical form `Memory.wf` of Machine/Ops.lean. -/
abbrev Memory := List Host.Cell

/-- One store event: one aligned 32-bit word, never split (R26). -/
structure StoreEvent where
  addr : Nat
  word : Word
  deriving DecidableEq, Repr

/-- Everything a run can show: the ports of the block and the environment around it. -/
structure State where
  x : Word                      -- input port of CLZ32 (R14)
  count : Count                 -- output port of CLZ32 (R14)
  n : Word                      -- input port of SmallestMask (R15)
  mask : Word                   -- output port of SmallestMask (R15)
  script : Script               -- the environment's lines still to perform (R22, R37, R85)
  names : List (Name × Word)    -- the names bound by earlier lines (R37), names strictly rising
  outBase : Nat                 -- OUT_BASE (R5, R23)
  mem : Memory                  -- host memory (R18, R23)
  stores : List StoreEvent      -- the store events made so far, oldest first (R26, R28)
  deriving DecidableEq, Repr

/-- Faults: none. The table of exception causes is empty (R71), so nobody raises one. -/
inductive Fault where
  deriving DecidableEq, Repr

/-- Refusals. Apart from `notModelled`, each is the environment's; no evaluation of the block refuses (R71). -/
inductive Refusal where
  /-- An instruction without a meaning. Raised by a refused arm of `exec`; this model has none. Safe. -/
  | notModelled (mnemonic : String)
  /-- Raised by `step` when no line is left: the run has ended, and what follows it the spec does not say (R85). Safe. -/
  | nothingPresented
  /-- Raised by a line that uses a name no earlier line has bound (R37 gives it no meaning). Safe. -/
  | unboundName (name : Name)
  /-- Raised by STORE at an address that is not a multiple of 4 (R25, D17: refused). Safe. -/
  | misalignedStore (addr : Nat)
  /-- Raised by STORE at an aligned address that the memory map does not define (U4: refused). Safe. -/
  | addressNotDefined (addr : Nat)
  deriving DecidableEq, Repr

/-- The state after reset. The block has no reset and no state (R20, R81): each output equals its function of the input
(R20), and for the inputs, which the spec gives no value, log entry 2 names 0 (DESIGN CHOICE, unsafe). SMASK's function
of 0 is the free value `SM_OOD(0)` (R63). `outBase` is 0 (R5). The environment has presented, bound and stored nothing
(log entries 7 to 10). -/
def State.reset : State where
  x := 0
  count := 32
  n := 0
  mask := Config.smOod 0
  script := []
  names := []
  outBase := 0
  mem := []
  stores := []

end Sys2Proof.Machine
end

