-- ==== Sys2Proof/Machine/Ops.lean ====
section
/-! DEFINITION. The named operations over the ports, the environment's names and host memory. There is no operation for
taking an exception or returning from one: the block raises nothing, saves nothing and returns from nothing (R71, R75,
R76). -/

namespace Sys2Proof.Machine

/-! Lists of (key, value) pairs with strictly rising keys: host memory and the bound names. -/

/-- The value listed under a key, if any. -/
def assocFind {α : Type} (k : Nat) : List (Nat × α) → Option α
  | [] => none
  | (k', v) :: rest => if k = k' then some v else assocFind k rest

/-- The list with the value under a key set, in its place by key. -/
def assocInsert {α : Type} (k : Nat) (v : α) : List (Nat × α) → List (Nat × α)
  | [] => [(k, v)]
  | (k', v') :: rest =>
    if k < k' then (k, v) :: (k', v') :: rest
    else if k = k' then (k, v) :: rest
    else (k', v') :: assocInsert k v rest

/-- Every key of the list is above `lo`, and the keys rise strictly. -/
def assocRisingFrom {α : Type} : Option Nat → List (Nat × α) → Bool
  | _, [] => true
  | none, (k, _) :: rest => assocRisingFrom (some k) rest
  | some lo, (k, _) :: rest => decide (lo < k) && assocRisingFrom (some k) rest

/-- The keys of the list rise strictly. -/
def assocRising {α : Type} (l : List (Nat × α)) : Bool :=
  assocRisingFrom none l

/-! Host memory (R18, R23 to R27). -/

/-- The canonical form: addresses strictly rising. An unlisted address reads as no value, so no entry can equal it. -/
def Memory.wf (m : Memory) : Bool :=
  assocRising m

/-- What an address reads as: the byte last written there; no value where nothing has been written, since the spec
gives memory no other contents (R27, log entry 9). -/
def Memory.readByte (m : Memory) (a : Nat) : Option Byte :=
  assocFind a m

/-- Writes one byte. -/
def Memory.writeByte (a : Nat) (b : Byte) (m : Memory) : Memory :=
  assocInsert a b m

/-- The byte of a word that lies `i` bytes above the word's address, for `i` = 0 to 3 (R24: the order is a parameter). -/
def byteOfWord (o : ByteOrder) (v : Word) (i : Nat) : Byte :=
  match o with
  | .little => v.extractLsb' (8 * i) 8
  | .big => v.extractLsb' (8 * (3 - i)) 8

/-- The word whose bytes, by rising address, are `b0` to `b3`. -/
def wordOfBytes (o : ByteOrder) (b0 b1 b2 b3 : Byte) : Word :=
  match o with
  | .little => b3 ++ b2 ++ b1 ++ b0
  | .big => b0 ++ b1 ++ b2 ++ b3

/-- Writes the four bytes of a word at `a` to `a + 3`. -/
def Memory.writeWord (o : ByteOrder) (a : Nat) (v : Word) (m : Memory) : Memory :=
  Memory.writeByte (a + 3) (byteOfWord o v 3)
    (Memory.writeByte (a + 2) (byteOfWord o v 2)
      (Memory.writeByte (a + 1) (byteOfWord o v 1)
        (Memory.writeByte a (byteOfWord o v 0) m)))

/-- The word at `a`, as the host reads a result (R86); no value unless all four bytes have been written. -/
def Memory.readWord (o : ByteOrder) (m : Memory) (a : Nat) : Option Word :=
  match m.readByte a, m.readByte (a + 1), m.readByte (a + 2), m.readByte (a + 3) with
  | some b0, some b1, some b2, some b3 => some (wordOfBytes o b0 b1 b2 b3)
  | _, _, _, _ => none

/-- The memory map: the three result words, and nothing else is fixed (R27, U4). -/
def hostDefines (outBase addr : Nat) : Bool :=
  addr == outBase + 4 || addr == outBase + 8 || addr == outBase + 12

/-- The address of a STORE line (R23). -/
def storeAddress (s : State) (offset : Nat) : Nat :=
  s.outBase + offset

/-- `MemWrite(addr, 4, v)` of R23: one aligned word, one event (R26). Refused at a misaligned address (R25) and at an
address the map does not define (U4). -/
def memWrite (addr : Nat) (v : Word) (s : State) : Host.Outcome State Fault Refusal :=
  if addr % 4 ≠ 0 then .refused (.misalignedStore addr)
  else if hostDefines s.outBase addr = false then .refused (.addressNotDefined addr)
  else .next { s with
    mem := Memory.writeWord Config.hostByteOrder addr v s.mem
    stores := s.stores ++ [⟨addr, v⟩] }

/-! The ports (R14, R15) and the names (R37). -/

/-- A word on port `x` and CLZ32's answer on port `count` (R14). The other component's ports keep their words. -/
def answerClz32 (x : Word) (count : Count) (s : State) : State :=
  { s with x := x, count := count }

/-- A word on port `n` and SmallestMask's answer on port `mask` (R15). The other component's ports keep their words. -/
def answerSmask (n mask : Word) (s : State) : State :=
  { s with n := n, mask := mask }

/-- Binds a name to a word (R37); a line without a destination binds nothing. -/
def bindName (dest : Option Name) (w : Word) (s : State) : State :=
  match dest with
  | none => s
  | some r => { s with names := assocInsert r w s.names }

/-- The script with its first line taken off. -/
def setScript (rest : Script) (s : State) : State :=
  { s with script := rest }

end Sys2Proof.Machine
end

