-- ==== Sys2Proof/Machine/Operands.lean ====
section
/-! DEFINITION. How operands are read (R32, R37, R58) and how results are widened (R32). -/

namespace Sys2Proof.Machine

/-- The signed value of a word, in two's complement (R6, S32 of R31). -/
def signedValue (n : Word) : Int :=
  n.toInt

/-- Stage 0 of SMASK: the same 32 bits, read as unsigned (R58). No bit changes (R32). -/
def asUnsigned (n : Word) : Word :=
  n

/-- `zext_32(count)`: the count in a 32-bit word, for a user who wants it there (R32). -/
def widenCount (c : Count) : Word :=
  c.setWidth 32

/-- The word a name is bound to, if an earlier line has bound it (R37). -/
def boundWord (r : Name) (s : State) : Option Word :=
  assocFind r s.names

/-- The value of a line's operand (R37), or the name that nothing has bound. -/
def operandValue (op : Operand) (s : State) : Except Name Word :=
  match op with
  | .lit w => .ok w
  | .name r =>
    match boundWord r s with
    | some w => .ok w
    | none => .error r

end Sys2Proof.Machine
end

