-- ==== Sys2Proof/Machine/Clz32.lean ====
section
/-! DEFINITION. CLZ32: the reference datapath (R43 to R50), which the machine runs; the contract as R40 writes it; the
narrowed datapath (R52), the closed form (R53) and the pseudo-operation BITLEN (R38). -/

namespace Sys2Proof.Machine

/-! The reference datapath. -/

/-- Start values (R43). -/
def clzStart (x : Word) : Running :=
  ⟨x, Config.nInit⟩

/-- The probe of a round with stride `c`: a logical right shift (R44). -/
def clzProbe (c : Nat) (r : Running) : Word :=
  r.value >>> c

/-- Whether a round is taken: its probe is nonzero (R44). -/
def clzTaken (c : Nat) (r : Running) : Bool :=
  nonzero (clzProbe c r)

/-- One round with stride `c` (R44). -/
def clzRound (c : Nat) (r : Running) : Running :=
  ⟨if clzTaken c r then clzProbe c r else r.value,
   if clzTaken c r then r.width - BitVec.ofNat 6 c else r.width⟩

/-- The running value and width after round `k`, for `k` = 0 to 5 (R43, R45 to R49). -/
def clzAfter : Nat → Word → Running
  | 0, x => clzStart x
  | k + 1, x => clzRound (Config.stride (k + 1)) (clzAfter k x)

/-- The signal `x_k`. -/
def clzX (k : Nat) (x : Word) : Word :=
  (clzAfter k x).value

/-- The signal `n_k`. -/
def clzN (k : Nat) (x : Word) : Count :=
  (clzAfter k x).width

/-- The signal `y_k` of round `k`, for `k` = 1 to 5. -/
def clzY (k : Nat) (x : Word) : Word :=
  clzProbe (Config.stride k) (clzAfter (k - 1) x)

/-- The signal `t_k` of round `k`, for `k` = 1 to 5. -/
def clzT (k : Nat) (x : Word) : Bool :=
  clzTaken (Config.stride k) (clzAfter (k - 1) x)

/-- The final subtraction `n_5 - zext_6(x_5[0])` (R50). -/
def clzFinal (r : Running) : Count :=
  r.width - (r.value.extractLsb' 0 1).setWidth 6

/-- `CLZ32(x)`: five rounds and the final subtraction (R43 to R50). -/
def clz32 (x : Word) : Count :=
  clzFinal (clzAfter Config.rounds x)

/-! The contract. -/

/-- The largest `i` below `k` with `x[i] = 1`. -/
def highestSetBelow (x : Word) : Nat → Option Nat
  | 0 => none
  | i + 1 => if x.getLsbD i then some i else highestSetBelow x i

/-- The index of the highest set bit, none for the zero word (R40). -/
def highestSetBit (x : Word) : Option Nat :=
  highestSetBelow x 32

/-- What CLZ32 computes, in the words of R40: 32 for zero, else `31 - p`. -/
def clzContract (x : Word) : Count :=
  match highestSetBit x with
  | none => 32
  | some p => BitVec.ofNat 6 (31 - p)

/-- The bit length: the position of the highest set bit plus one, and 0 for zero (R9, D12). -/
def bitLength (x : Word) : Nat :=
  match highestSetBit x with
  | none => 0
  | some p => p + 1

/-- The pseudo-operation BITLEN, by its expansion: `len = 32 - count` (R38). -/
def bitlenOfCount (count : Count) : Count :=
  Config.widthTotal - count

/-! Equivalent forms. -/

/-- The upper half of the window before a round with stride `c`: bits `2c-1 .. c` (R51, R52). -/
def clzUpperHalf (c : Nat) (v : Word) : Word :=
  (v.extractLsb' c c).setWidth 32

/-- One round of the narrowed datapath (R52). -/
def clzNarrowRound (c : Nat) (r : Running) : Running :=
  if nonzero (clzUpperHalf c r.value) then ⟨clzUpperHalf c r.value, r.width - BitVec.ofNat 6 c⟩
  else ⟨(r.value.extractLsb' 0 c).setWidth 32, r.width⟩

/-- The narrowed datapath after round `k` (R52). -/
def clzNarrowAfter : Nat → Word → Running
  | 0, x => clzStart x
  | k + 1, x => clzNarrowRound (Config.stride (k + 1)) (clzNarrowAfter k x)

/-- `p = 16*t_1 + 8*t_2 + 4*t_3 + 2*t_4 + t_5` (R53). -/
def clzIndex (x : Word) : Nat :=
  16 * (clzT 1 x).toNat + 8 * (clzT 2 x).toNat + 4 * (clzT 3 x).toNat + 2 * (clzT 4 x).toNat + (clzT 5 x).toNat

/-- The sum of the strides taken in rounds 1 to `k` (R53). -/
def clzTakenSum : Nat → Word → Nat
  | 0, _ => 0
  | k + 1, x => clzTakenSum k x + (if clzT (k + 1) x then Config.stride (k + 1) else 0)

/-! The meaning. -/

/-- CLZ32 (R40): the word stands on port `x` and its count of leading zeros on port `count`. Nothing else changes, and
nothing can stop it (R71). -/
def execClz32 (x : Word) (s : State) : Host.Outcome State Fault Refusal :=
  .next (answerClz32 x (clz32 x) s)

end Sys2Proof.Machine
end

