-- ==== Sys2Proof/Machine/Smask.lean ====
section
/-! DEFINITION. SMASK: the reference datapath (R58 to R62), the domain and the open value outside it (R63), the three
illustrations of R64 and the equivalent datapaths of R69. -/

namespace Sys2Proof.Machine

/-! The reference datapath. -/

/-- Stage 1: the count of the converted operand (R58, R59). -/
def smaskCount (n : Word) : Count :=
  clz32 (asUnsigned n)

/-- Stage 2: the width `w = 32 - cnt` (R60). -/
def smaskWidth (n : Word) : Count :=
  Config.widthTotal - smaskCount n

/-- Stage 3: `pw = 1 << w[4:0]` (R61). -/
def smaskPower (w : Count) : Word :=
  Config.one <<< (w.extractLsb' 0 5).toNat

/-- Stage 4: `mask = pw - 1` (R62). -/
def smaskDecrement (pw : Word) : Word :=
  pw - Config.one

/-- Stages 0 to 4 together; what R57 promises for an in-domain `n`. -/
def smaskDatapath (n : Word) : Word :=
  smaskDecrement (smaskPower (smaskWidth n))

/-- SMASK for a given answer outside the domain (R57, R63). -/
def smaskWith (ood : Word → Word) (n : Word) : Word :=
  if inDomain n then smaskDatapath n else ood n

/-- `SMASK(n)`, with the open parameter `SM_OOD` (R63). -/
def smask (n : Word) : Word :=
  smaskWith Config.smOod n

/-! The three readings of the formula outside the domain (R64): illustrations, used by no meaning. -/

/-- WIDE: evaluate `(1 << w) - 1` in 33 bits and keep the low 32. -/
def smaskWide (n : Word) : Word :=
  ((1#33 <<< (smaskWidth n).toNat) - 1#33).setWidth 32

/-- WRAP: use only `w[4:0]` as the shift count. -/
def smaskWrap (n : Word) : Word :=
  (Config.one <<< ((smaskWidth n).extractLsb' 0 5).toNat) - Config.one

/-- ZEROSHIFT: a shift by 32 pushes the one out of the word. -/
def smaskZeroShift (n : Word) : Word :=
  (Config.one <<< (smaskWidth n).toNat) - Config.one

/-! The equivalent datapaths of R69. -/

/-- (a) Shifting ones down by the count; the rule defines it for counts 1 to 31. -/
def smaskShiftDown (n : Word) : Word :=
  0xFFFFFFFF#32 >>> (smaskCount n).toNat

/-- One or-shift step of the smear cascade. -/
def smearStep (c : Nat) (m : Word) : Word :=
  m ||| (m >>> c)

/-- (b) The smear cascade: five or-shift steps. -/
def smaskSmear (n : Word) : Word :=
  smearStep 16 (smearStep 8 (smearStep 4 (smearStep 2 (smearStep 1 (asUnsigned n)))))

/-- (c) Thermometer decode of the width: bit `i` is 1 exactly when `i < w`. -/
def smaskThermometer (n : Word) : Word :=
  BitVec.ofFnLE fun i : Fin 32 => decide (i.val < (smaskWidth n).toNat)

/-! The meaning. -/

/-- SMASK (R57): the word stands on port `n` and its mask on port `mask`; outside the domain the mask is the free value
`SM_OOD(n)` (R63). Nothing else changes, and nothing can stop it (R71, R72). -/
def execSmask (n : Word) (s : State) : Host.Outcome State Fault Refusal :=
  .next (answerSmask n (smask n) s)

end Sys2Proof.Machine
end

