-- ==== Sys2Proof/Machine/Dispatch.lean ====
section
/-! DEFINITION. One arm per operation of the opcode table. -/

namespace Sys2Proof.Machine

def exec (i : Instr) (s : State) : Host.Outcome State Fault Refusal :=
  match i with
  | .clz32 x => Sys2Proof.Machine.execClz32 x s
  | .smask n => Sys2Proof.Machine.execSmask n s

end Sys2Proof.Machine
end

