-- ==== Sys2Proof/Machine/Environment.lean ====
section
/-! DEFINITION. The environment: what one of its lines does (R22, R23, R37, R38, R86), and the source's driver as a script
(R22, R23, R85). -/

namespace Sys2Proof.Machine

/-- The operand a line presents to the block, and the port it drives; a STORE line presents nothing. -/
def lineOperand : Line → Option (InPort × Operand)
  | .clz32 _ op => some (.x, op)
  | .smask _ op => some (.n, op)
  | .bitlen _ op => some (.x, op)
  | .store _ _ => none

/-- What a line presents in a state, when its operand has a value (R37). -/
def presented (l : Line) (s : State) : Option Presentation :=
  match lineOperand l with
  | none => none
  | some (p, op) =>
    match operandValue op s with
    | .ok w => some ⟨p, w⟩
    | .error _ => none

/-- What the environment does with the answer: it binds the line's name to the output, `count` zero-extended (R32, R37),
or for BITLEN to `32 - count` (R38). -/
def takeAnswer (l : Line) (t : State) : State :=
  match l with
  | .clz32 dest _ => bindName dest (widenCount t.count) t
  | .smask dest _ => bindName dest t.mask t
  | .bitlen dest _ => bindName dest (widenCount (bitlenOfCount t.count)) t
  | .store _ _ => t

/-- Presents a word, lets the block answer, and takes the answer (R83: one atomic step). -/
def evaluate (l : Line) (p : InPort) (op : Operand) (s : State) : Host.Outcome State Fault Refusal :=
  match operandValue op s with
  | .error r => .refused (.unboundName r)
  | .ok w =>
    match exec (decode ⟨p, w⟩) s with
    | .next t => .next (takeAnswer l t)
    | .fault f => .fault f
    | .refused r => .refused r

/-- Stores the word a name is bound to at `OUT_BASE + offset` (R23). -/
def storeNamed (offset : Nat) (src : Name) (s : State) : Host.Outcome State Fault Refusal :=
  match boundWord src s with
  | none => .refused (.unboundName src)
  | some v => memWrite (storeAddress s offset) v s

/-- Performs one line. -/
def runLine (l : Line) (s : State) : Host.Outcome State Fault Refusal :=
  match l with
  | .clz32 _ op => evaluate l .x op s
  | .smask _ op => evaluate l .n op s
  | .bitlen _ op => evaluate l .x op s
  | .store offset src => storeNamed offset src s

/-- Performs the environment's next line; with no line left the run has ended (R85) and the step is refused. -/
def environmentStep (s : State) : Host.Outcome State Fault Refusal :=
  match s.script with
  | [] => .refused .nothingPresented
  | l :: rest => runLine l (setScript rest s)

/-- Puts a line in front of the script; no line changes nothing. -/
def presentLine (l : Option Line) (s : State) : State :=
  match l with
  | none => s
  | some l => setScript (l :: s.script) s

/-- The source's driver: 1, 509, 1000 in this order, each result stored after its evaluation (R22, R23, R85). The names
1, 2, 3 stand for `r1`, `r2`, `r3`. -/
def driverScript : Script :=
  [.smask (some 1) (.lit 1), .store 4 1,
   .smask (some 2) (.lit 509), .store 8 2,
   .smask (some 3) (.lit 1000), .store 12 3]

end Sys2Proof.Machine
end

