-- ==== Sys2Proof/Machine/Step.lean ====
section
/-! DEFINITION. One step: the environment performs its next line, and the block answers it. -/

namespace Sys2Proof.Machine

/-- One step (R83, R85). -/
def step (s : State) : Host.Outcome State Fault Refusal :=
  environmentStep s

/-- `s` with the evaluation of a table word as the next thing the environment does; nothing else changes. A number that
names no port (log entry 6) changes nothing. -/
def State.withFetchWord (s : State) (nbits w : Nat) : State :=
  presentLine (lineOfTableWord nbits w) s

end Sys2Proof.Machine
end

