-- ==== Sys2Proof/Certificates/Slice0/Tables.lean ====
section
/-! DEFINITION. The tables of R42 and R67, row by row as the spec prints them, for the statements that quote them. -/

namespace Sys2Proof.Claims

/-- A row of the table of R42: the count, the interval of `x`, and the flags `t_1 .. t_5`, which spell the index `p` of
the highest set bit in binary. -/
structure ClzRow where
  count : Count
  least : Word
  greatest : Word
  flags : BitVec 5
  deriving DecidableEq, Repr

/-- A row of the table of R67: the width, the count, and the interval of `n`; the mask of every row is the greatest `n`
of the row. -/
structure SmaskRow where
  width : Count
  count : Count
  least : Word
  greatest : Word
  deriving DecidableEq, Repr

/-- Rows 0 to 15 of the table of R42. -/
def clzRowsUpper : List ClzRow :=
  [⟨0, 0x80000000, 0xFFFFFFFF, 0b11111⟩, ⟨1, 0x40000000, 0x7FFFFFFF, 0b11110⟩,
   ⟨2, 0x20000000, 0x3FFFFFFF, 0b11101⟩, ⟨3, 0x10000000, 0x1FFFFFFF, 0b11100⟩,
   ⟨4, 0x08000000, 0x0FFFFFFF, 0b11011⟩, ⟨5, 0x04000000, 0x07FFFFFF, 0b11010⟩,
   ⟨6, 0x02000000, 0x03FFFFFF, 0b11001⟩, ⟨7, 0x01000000, 0x01FFFFFF, 0b11000⟩,
   ⟨8, 0x00800000, 0x00FFFFFF, 0b10111⟩, ⟨9, 0x00400000, 0x007FFFFF, 0b10110⟩,
   ⟨10, 0x00200000, 0x003FFFFF, 0b10101⟩, ⟨11, 0x00100000, 0x001FFFFF, 0b10100⟩,
   ⟨12, 0x00080000, 0x000FFFFF, 0b10011⟩, ⟨13, 0x00040000, 0x0007FFFF, 0b10010⟩,
   ⟨14, 0x00020000, 0x0003FFFF, 0b10001⟩, ⟨15, 0x00010000, 0x0001FFFF, 0b10000⟩]

/-- Rows 16 to 31 of the table of R42. -/
def clzRowsLower : List ClzRow :=
  [⟨16, 0x00008000, 0x0000FFFF, 0b01111⟩, ⟨17, 0x00004000, 0x00007FFF, 0b01110⟩,
   ⟨18, 0x00002000, 0x00003FFF, 0b01101⟩, ⟨19, 0x00001000, 0x00001FFF, 0b01100⟩,
   ⟨20, 0x00000800, 0x00000FFF, 0b01011⟩, ⟨21, 0x00000400, 0x000007FF, 0b01010⟩,
   ⟨22, 0x00000200, 0x000003FF, 0b01001⟩, ⟨23, 0x00000100, 0x000001FF, 0b01000⟩,
   ⟨24, 0x00000080, 0x000000FF, 0b00111⟩, ⟨25, 0x00000040, 0x0000007F, 0b00110⟩,
   ⟨26, 0x00000020, 0x0000003F, 0b00101⟩, ⟨27, 0x00000010, 0x0000001F, 0b00100⟩,
   ⟨28, 0x00000008, 0x0000000F, 0b00011⟩, ⟨29, 0x00000004, 0x00000007, 0b00010⟩,
   ⟨30, 0x00000002, 0x00000003, 0b00001⟩, ⟨31, 0x00000001, 0x00000001, 0b00000⟩]

/-- Rows 1 to 15 of the table of R67. -/
def smaskRowsLower : List SmaskRow :=
  [⟨1, 31, 0x00000001, 0x00000001⟩, ⟨2, 30, 0x00000002, 0x00000003⟩,
   ⟨3, 29, 0x00000004, 0x00000007⟩, ⟨4, 28, 0x00000008, 0x0000000F⟩,
   ⟨5, 27, 0x00000010, 0x0000001F⟩, ⟨6, 26, 0x00000020, 0x0000003F⟩,
   ⟨7, 25, 0x00000040, 0x0000007F⟩, ⟨8, 24, 0x00000080, 0x000000FF⟩,
   ⟨9, 23, 0x00000100, 0x000001FF⟩, ⟨10, 22, 0x00000200, 0x000003FF⟩,
   ⟨11, 21, 0x00000400, 0x000007FF⟩, ⟨12, 20, 0x00000800, 0x00000FFF⟩,
   ⟨13, 19, 0x00001000, 0x00001FFF⟩, ⟨14, 18, 0x00002000, 0x00003FFF⟩,
   ⟨15, 17, 0x00004000, 0x00007FFF⟩]

/-- Rows 16 to 31 of the table of R67. -/
def smaskRowsUpper : List SmaskRow :=
  [⟨16, 16, 0x00008000, 0x0000FFFF⟩, ⟨17, 15, 0x00010000, 0x0001FFFF⟩,
   ⟨18, 14, 0x00020000, 0x0003FFFF⟩, ⟨19, 13, 0x00040000, 0x0007FFFF⟩,
   ⟨20, 12, 0x00080000, 0x000FFFFF⟩, ⟨21, 11, 0x00100000, 0x001FFFFF⟩,
   ⟨22, 10, 0x00200000, 0x003FFFFF⟩, ⟨23, 9, 0x00400000, 0x007FFFFF⟩,
   ⟨24, 8, 0x00800000, 0x00FFFFFF⟩, ⟨25, 7, 0x01000000, 0x01FFFFFF⟩,
   ⟨26, 6, 0x02000000, 0x03FFFFFF⟩, ⟨27, 5, 0x04000000, 0x07FFFFFF⟩,
   ⟨28, 4, 0x08000000, 0x0FFFFFFF⟩, ⟨29, 3, 0x10000000, 0x1FFFFFFF⟩,
   ⟨30, 2, 0x20000000, 0x3FFFFFFF⟩, ⟨31, 1, 0x40000000, 0x7FFFFFFF⟩]

/-- The rows of R42 for `x` not zero; the last row of the table is `x = 0`, with count 32 and every flag 0. -/
def clzRows : List ClzRow :=
  clzRowsUpper ++ clzRowsLower

/-- The rows of R67. -/
def smaskRows : List SmaskRow :=
  smaskRowsLower ++ smaskRowsUpper

end Sys2Proof.Claims
end

