-- ==== Sys2Proof/WellFormed.lean ====
section
/-! DEFINITION. Well-formedness. An instruction has one operand field, a whole 32-bit word, and every word is legal (R35,
R36), so every instruction is well formed. What can be ill formed is a line of the environment: it may use a name that
nothing has bound (R37), or store at a misaligned (R25) or undefined (U4) address. -/

namespace Sys2Proof

/-- No operand value and no encoding is illegal (R35, R36). -/
def Instr.wellFormed : Instr → Bool
  | .clz32 _ => true
  | .smask _ => true

/-- An operand is a literal or a name already bound (R37). -/
def operandWellFormed (bound : List Name) : Operand → Bool
  | .lit _ => true
  | .name r => bound.contains r

/-- A line uses bound names only, and stores at an aligned address of the memory map. -/
def lineWellFormed (outBase : Nat) (bound : List Name) : Line → Bool
  | .clz32 _ op => operandWellFormed bound op
  | .smask _ op => operandWellFormed bound op
  | .bitlen _ op => operandWellFormed bound op
  | .store offset src =>
    bound.contains src && (outBase + offset) % 4 == 0 && Machine.hostDefines outBase (outBase + offset)

/-- The name a line binds, if any. -/
def lineBinds : Line → Option Name
  | .clz32 dest _ => dest
  | .smask dest _ => dest
  | .bitlen dest _ => dest
  | .store _ _ => none

/-- The names bound after a line. -/
def boundAfter (l : Line) (bound : List Name) : List Name :=
  match lineBinds l with
  | none => bound
  | some r => r :: bound

/-- Each line is well formed where it stands. -/
def scriptWellFormed (outBase : Nat) : List Name → Script → Bool
  | _, [] => true
  | bound, l :: rest => lineWellFormed outBase bound l && scriptWellFormed outBase (boundAfter l bound) rest

end Sys2Proof
end

