-- ==== Sys2Proof/Safety.lean ====
section
/-! DEFINITION. What a good state is and what a safe run is, in the terms the claims use. -/

namespace Sys2Proof.Machine

/-- Each output port carries its function of the word on its input port (R20): the contract of R40 on `count`; on `mask`
the all-ones mask of the input's bit length in the domain (R65 (a)), the free value outside it (R63). -/
def PortsAnswer (s : State) : Prop :=
  s.count = clzContract s.x ∧
  s.mask = if inDomain s.n then BitVec.ofNat 32 (2 ^ bitLength s.n - 1) else Config.smOod s.n

/-- Host memory after a list of store events, from memory that nothing has written. -/
def replayStores (events : List StoreEvent) : Memory :=
  events.foldl (fun m e => Memory.writeWord Config.hostByteOrder e.addr e.word m) []

/-- Every store event was aligned and at an address of the memory map (R25, R26, U4). -/
def storesAllowed (s : State) : Bool :=
  s.stores.all fun e => e.addr % 4 == 0 && hostDefines s.outBase e.addr

/-- Memory and names keep their canonical form, and memory holds exactly what the store events put there (R86: "host
memory keeps it"). -/
def HostConsistent (s : State) : Prop :=
  Memory.wf s.mem = true ∧ assocRising s.names = true ∧ storesAllowed s = true ∧ s.mem = replayStores s.stores

/-- The model's invariant. -/
def Inv (s : State) : Prop :=
  PortsAnswer s ∧ HostConsistent s

/-- The environment's remaining lines are well formed, given the names bound so far. -/
def ScriptSafe (s : State) : Prop :=
  scriptWellFormed s.outBase (s.names.map Prod.fst) s.script = true

end Sys2Proof.Machine
end

