-- ==== Sys2Proof/Certificates/Slice0/Obligations.lean ====
section
/-! DEFINITION. The statements for the provers. Each docstring names the rule of spec/ it formalises, or the log entry of
the model's choice it rests on. -/

open Sys2Proof Sys2Proof.Machine Sys2Proof.Claims

/-! ## Decoding, encoding and the step -/

/-- R34: each operation has its own ports and formats, and a word on an input port is the operand of that port's
operation. The port number above a table word is the model's notation (log entry 6). -/
def Obligations.SpecWordsDecodeToTheirOperations : Prop :=
  decode ⟨.x, 0b00000000000000000000000111111101⟩ = .clz32 0x000001FD ∧
  decode ⟨.n, 0b00000000000000000000001111101000⟩ = .smask 0x000003E8 ∧
  decodeTableWord 32 0b00000000000000000000000111111101 = some (.clz32 0x000001FD) ∧
  decodeTableWord 40 0b100000000000000000000001111101000 = some (.smask 0x000003E8) ∧
  decodeTableWord 40 0b1000000000000000000000001111101000 = none ∧
  (inPortFormat .x = .u32 ∧ answeringPort .x = .count ∧ outPortFormat .count = .c6) ∧
  (inPortFormat .n = .s32 ∧ answeringPort .n = .mask ∧ outPortFormat .mask = .u32) ∧
  (formatWidth .u32 = 32 ∧ formatWidth .s32 = 32 ∧ formatWidth .c6 = 6)

/-- Decoding and encoding agree both ways, on presentations (R34) and on the numbers that stand for them (log
entry 6). -/
def Obligations.DecodeAndEncodeAgree : Prop :=
  (∀ i : Instr, decode (encode i) = i ∧ decodeBits (encodeBits i) = .ok i ∧
    decodeTableWord 40 (encodeBits i) = some i) ∧
  (∀ p : Presentation, encode (decode p) = p) ∧
  (∀ bits i, decodeBits bits = .ok i → encodeBits i = bits) ∧
  (∀ bits, 2 ^ 33 ≤ bits → decodeBits bits = .error (.noSuchPort (bits / 2 ^ 32)))

/-- A step runs the decoded instruction: when the next line presents `p`, the step is `exec (decode p)` with the line
taken off the script, and then the environment's taking of the answer. The evaluation is R34's. The script, the step and
the taking off of a line are the model's choice (log entry 7, DESIGN CHOICE); so is what `takeAnswer` binds, an optional
numbered name with the count zero-extended (log entry 8, DESIGN CHOICE). -/
def Obligations.StepRunsThePresentedInstruction : Prop :=
  ∀ (s t : State) (l : Line) (rest : Script) (p : Presentation),
    s.script = l :: rest → presented l (setScript rest s) = some p →
    exec (decode p) (setScript rest s) = .next t → step s = .next (takeAnswer l t)

/-- What `withFetchWord` places is what the very next step runs, with nothing added (log entries 6 and 7). -/
def Obligations.FetchedTableWordRunsAsDecoded : Prop :=
  ∀ (s : State) (nbits w : Nat) (i : Instr),
    decodeTableWord nbits w = some i → step (s.withFetchWord nbits w) = exec i s

/-! ## CLZ32 -/

/-- R40: CLZ32 completes for every word, in every state; port `count` gets 32 for zero and `31 - p` else, `p` the highest
set bit; nothing but the two ports of CLZ32 changes. With the rule's second wording, its corner cases and its example. -/
def Obligations.Clz32CountsLeadingZeros : Prop :=
  ∀ (x : Word) (s : State), ∃ t, exec (.clz32 x) s = .next t ∧
    t = { s with x := x, count := t.count } ∧
    (x = 0 → t.count = 32) ∧
    (∀ p, p < 32 → x.getLsbD p = true → (∀ i, p < i → i < 32 → x.getLsbD i = false) → t.count.toNat = 31 - p) ∧
    t.count.toNat =
      ((List.range 32).filter fun i => (List.range 32).all fun j => decide (j < i) || !x.getLsbD j).length ∧
    (t.count.getLsbD 5 = true ↔ x = 0) ∧
    (x = 1 → t.count = 31) ∧
    (x.getLsbD 31 = true → t.count = 0) ∧
    (x = 0x00010000 ∨ x = 0x0001FFFF → t.count = 15) ∧
    (x = 0x000001FD → t.count = 23)

/-- R41: the range, the value at zero, the bounds by powers of two, and that the bounds determine the count. -/
def Obligations.Clz32ValueLaws : Prop :=
  ∀ (x : Word) (s : State), ∃ t, exec (.clz32 x) s = .next t ∧
    t.count.toNat ≤ 32 ∧
    (x = 0 ↔ t.count = 32) ∧
    (x ≠ 0 → 2 ^ (31 - t.count.toNat) ≤ x.toNat ∧ x.toNat < 2 ^ (32 - t.count.toNat)) ∧
    (x ≠ 0 → ∀ c, 2 ^ (31 - c) ≤ x.toNat → x.toNat < 2 ^ (32 - c) → c = t.count.toNat)

/-- R42: the whole function as a table, with the taken flags. -/
def Obligations.Clz32IntervalTable : Prop :=
  (∀ (x : Word) (s : State), ∃ t, exec (.clz32 x) s = .next t ∧
    (∀ r ∈ clzRows, r.least ≤ x → x ≤ r.greatest →
      t.count = r.count ∧ highestSetBit x = some r.flags.toNat ∧
      [clzT 1 x, clzT 2 x, clzT 3 x, clzT 4 x, clzT 5 x] =
        [r.flags.getMsbD 0, r.flags.getMsbD 1, r.flags.getMsbD 2, r.flags.getMsbD 3, r.flags.getMsbD 4]) ∧
    (x = 0 → t.count = 32 ∧ highestSetBit x = none ∧
      [clzT 1 x, clzT 2 x, clzT 3 x, clzT 4 x, clzT 5 x] = [false, false, false, false, false])) ∧
  (∀ x : Word, x ≠ 0 → ∃ r ∈ clzRows, r.least ≤ x ∧ x ≤ r.greatest)

/-- R43: the start values of the datapath are the input word and 32, for every input. -/
def Obligations.DatapathStartsFromTheWordAnd32 : Prop :=
  (∀ x : Word, clzX 0 x = x ∧ clzN 0 x = 0b100000) ∧
  clzX 0 0x000001FD = 0x000001FD ∧ clzN 0 0x000001FD = 32

/-- R44: round `k` with its stride. The probe divides by `2^c` (a logical shift); the subtraction never wraps; a taken round
may drop nonzero low bits (`0x00018001`, 90_conflicts.md C7). -/
def Obligations.RoundProbesAndShrinksWithoutWrap : Prop :=
  [Config.stride 1, Config.stride 2, Config.stride 3, Config.stride 4, Config.stride 5] = [16, 8, 4, 2, 1] ∧
  (∀ (x : Word) (k : Nat), 1 ≤ k → k ≤ 5 →
    (clzY k x).toNat = (clzX (k - 1) x).toNat / 2 ^ Config.stride k ∧
    (clzT k x = true ↔ clzY k x ≠ 0) ∧
    clzX k x = (if clzT k x then clzY k x else clzX (k - 1) x) ∧
    2 * Config.stride k ≤ (clzN (k - 1) x).toNat ∧
    (clzN k x).toNat = (clzN (k - 1) x).toNat - (if clzT k x then Config.stride k else 0) ∧
    Config.stride k ≤ (clzN k x).toNat) ∧
  (clzX 1 0x000001FD = 0x000001FD ∧ clzN 1 0x000001FD = 32 ∧ clzY 2 0x000001FD = 1 ∧ clzT 2 0x000001FD = true ∧
    clzX 2 0x000001FD = 1 ∧ clzN 2 0x000001FD = 24) ∧
  (clzT 1 0x00018001 = true ∧ clzX 1 0x00018001 = 1 ∧ clzN 1 0x00018001 = 16)

/-- R45 to R49: what each of the five rounds reads of the word, and the range its width can have, with the chain of
examples for `0x00F00000`. -/
def Obligations.RoundsReadTheUpperHalfOfTheWindow : Prop :=
  (∀ x : Word,
    clzY 1 x = (x.extractLsb' 16 16).setWidth 32 ∧ (clzT 1 x = true ↔ x.extractLsb' 16 16 ≠ 0) ∧
    clzX 1 x = (if clzT 1 x then clzY 1 x else x) ∧ clzN 1 x = (if clzT 1 x then 16 else 32) ∧
    (clzX 1 x).extractLsb' 16 16 = 0) ∧
  (∀ x : Word,
    clzY 2 x = ((clzX 1 x).extractLsb' 8 8).setWidth 32 ∧ (clzT 2 x = true ↔ clzY 2 x ≠ 0) ∧
    clzX 2 x = (if clzT 2 x then clzY 2 x else clzX 1 x) ∧
    clzN 2 x = (if clzT 2 x then clzN 1 x - 8 else clzN 1 x) ∧
    (clzT 1 x = false → clzN 2 x = 32 ∨ clzN 2 x = 24) ∧ (clzT 1 x = true → clzN 2 x = 16 ∨ clzN 2 x = 8) ∧
    (clzX 2 x).toNat < 2 ^ 8) ∧
  (∀ x : Word,
    clzY 3 x = ((clzX 2 x).extractLsb' 4 4).setWidth 32 ∧ (clzT 3 x = true ↔ clzY 3 x ≠ 0) ∧
    clzX 3 x = (if clzT 3 x then clzY 3 x else clzX 2 x) ∧
    clzN 3 x = (if clzT 3 x then clzN 2 x - 4 else clzN 2 x) ∧
    (clzN 3 x).toNat % 4 = 0 ∧ 4 ≤ (clzN 3 x).toNat ∧ (clzN 3 x).toNat ≤ 32 ∧
    (clzX 3 x).toNat < 2 ^ 4) ∧
  (∀ x : Word,
    clzY 4 x = ((clzX 3 x).extractLsb' 2 2).setWidth 32 ∧ (clzT 4 x = true ↔ clzY 4 x ≠ 0) ∧
    clzX 4 x = (if clzT 4 x then clzY 4 x else clzX 3 x) ∧
    clzN 4 x = (if clzT 4 x then clzN 3 x - 2 else clzN 3 x) ∧
    (clzN 4 x).toNat % 2 = 0 ∧ 2 ≤ (clzN 4 x).toNat ∧ (clzN 4 x).toNat ≤ 32 ∧
    (clzX 4 x).toNat < 2 ^ 2) ∧
  (∀ x : Word,
    clzY 5 x = ((clzX 4 x).extractLsb' 1 1).setWidth 32 ∧ clzT 5 x = (clzX 4 x).getLsbD 1 ∧
    (clzT 5 x = true ↔ clzY 5 x ≠ 0) ∧
    clzX 5 x = (if clzT 5 x then clzY 5 x else clzX 4 x) ∧
    clzN 5 x = (if clzT 5 x then clzN 4 x - 1 else clzN 4 x) ∧
    1 ≤ (clzN 5 x).toNat ∧ (clzN 5 x).toNat ≤ 32 ∧
    (clzX 5 x = 0 ∨ clzX 5 x = 1) ∧ (clzX 5 x = 0 ↔ x = 0)) ∧
  ([clzY 1 0x00F00000, clzX 1 0x00F00000, clzY 2 0x00F00000, clzX 2 0x00F00000, clzY 3 0x00F00000,
      clzX 3 0x00F00000, clzY 4 0x00F00000, clzX 4 0x00F00000, clzY 5 0x00F00000, clzX 5 0x00F00000] =
    [0xF0, 0xF0, 0, 0xF0, 0xF, 0xF, 0x3, 0x3, 0x1, 0x1] ∧
  [clzN 1 0x00F00000, clzN 2 0x00F00000, clzN 3 0x00F00000, clzN 4 0x00F00000, clzN 5 0x00F00000] =
    [16, 16, 12, 10, 9] ∧
  [clzT 1 0x00F00000, clzT 2 0x00F00000, clzT 3 0x00F00000, clzT 4 0x00F00000, clzT 5 0x00F00000] =
    [true, false, true, true, true])

/-- R50: the final subtraction drives port `count`, and never wraps. -/
def Obligations.FinalSubtractionDrivesCount : Prop :=
  ∀ (x : Word) (s : State), ∃ t, exec (.clz32 x) s = .next t ∧
    t.count = clzN 5 x - ((clzX 5 x).extractLsb' 0 1).setWidth 6 ∧
    1 ≤ (clzN 5 x).toNat ∧ (clzX 5 x).toNat ≤ 1 ∧
    t.count.toNat = (clzN 5 x).toNat - (clzX 5 x).toNat ∧
    (x = 0 → clzN 5 x = 32 ∧ clzX 5 x = 0 ∧ t.count = 32 ∧
      [clzT 1 x, clzT 2 x, clzT 3 x, clzT 4 x, clzT 5 x] = [false, false, false, false, false]) ∧
    (x.getLsbD 31 = true → clzN 5 x = 1 ∧ clzX 5 x = 1 ∧ t.count = 0 ∧
      [clzT 1 x, clzT 2 x, clzT 3 x, clzT 4 x, clzT 5 x] = [true, true, true, true, true]) ∧
    (x = 0x00F00000 → t.count = 8)

/-- R51: the window law. -/
def Obligations.WindowHalvesEachRound : Prop :=
  ∀ (x : Word) (k : Nat), 1 ≤ k → k ≤ 5 →
    (clzX k x).toNat < 2 ^ Config.stride k ∧
    (∀ i, Config.stride k ≤ i → (clzX k x).getLsbD i = false) ∧
    (clzX k x = 0 ↔ x = 0)

/-- R52: the narrowed datapath gives the same flags, values and widths as the full-width one, round by round. -/
def Obligations.NarrowedDatapathAgrees : Prop :=
  (∀ (x : Word) (k : Nat), k ≤ 5 → clzNarrowAfter k x = clzAfter k x) ∧
  (∀ (x : Word) (k : Nat), 1 ≤ k → k ≤ 5 →
    (clzT k x = true ↔ (clzX (k - 1) x).extractLsb' (Config.stride k) (Config.stride k) ≠ 0) ∧
    (clzX k x).extractLsb' 0 (Config.stride k) =
      (if clzT k x then (clzX (k - 1) x).extractLsb' (Config.stride k) (Config.stride k)
       else (clzX (k - 1) x).extractLsb' 0 (Config.stride k)) ∧
    (clzX k x).extractLsb' (Config.stride k) (32 - Config.stride k) = 0)

/-- R53: the closed form. The taken flags spell the index of the highest set bit, and the count is its complement. -/
def Obligations.FlagsSpellTheHighestBit : Prop :=
  (∀ x : Word, clzIndex x ≤ 31 ∧ (clzN 5 x).toNat = 32 - clzIndex x) ∧
  (∀ (x : Word) (k : Nat), k ≤ 5 → clzX k x = x >>> clzTakenSum k x) ∧
  (∀ (x : Word) (s : State), ∃ t, exec (.clz32 x) s = .next t ∧
    (x ≠ 0 → clzX 5 x = 1 ∧ highestSetBit x = some (clzIndex x) ∧ t.count.toNat = 31 - clzIndex x ∧
      t.count.extractLsb' 0 5 = ~~~(BitVec.ofNat 5 (clzIndex x)) ∧ t.count.getLsbD 5 = false) ∧
    (x = 0 → clzIndex x = 0 ∧ clzX 5 x = 0 ∧ t.count = 32 ∧ t.count.getLsbD 5 = true ∧
      t.count.extractLsb' 0 5 = 0 ∧
      [clzT 1 x, clzT 2 x, clzT 3 x, clzT 4 x, clzT 5 x] = [false, false, false, false, false]))

/-- R54: for every word the five-round datapath, which the machine runs, computes the contract of R40 and satisfies the
laws of R41. -/
def Obligations.DatapathMeetsTheContract : Prop :=
  ∀ x : Word, clz32 x = clzContract x ∧
    (clz32 x).toNat ≤ 32 ∧ (clz32 x = 32 ↔ x = 0) ∧
    (x ≠ 0 → 2 ^ (31 - (clz32 x).toNat) ≤ x.toNat ∧ x.toNat < 2 ^ (32 - (clz32 x).toNat))

/-- R56: the source's testable properties of CLZ32. -/
def Obligations.Clz32TestableProperties : Prop :=
  ∀ (x : Word) (s s' : State), ∃ t t', exec (.clz32 x) s = .next t ∧ exec (.clz32 x) s' = .next t' ∧
    t.count.toNat + bitLength x = 32 ∧
    (x = 0 → t.count = 32) ∧
    0 ≤ t.count.toNat ∧ t.count.toNat ≤ 32 ∧
    t'.count = t.count

/-- R39: the patterns on port `count`. -/
def Obligations.CountWordPatterns : Prop :=
  (∀ (x : Word) (s : State), ∃ t, exec (.clz32 x) s = .next t ∧
    t.count ≤ 0b100000 ∧
    (t.count.getLsbD 5 = true ↔ x = 0) ∧ (x = 0 → t.count = 0b100000) ∧
    (∀ p, highestSetBit x = some p →
      t.count.extractLsb' 0 5 = ~~~(BitVec.ofNat 5 p) ∧ t.count.toNat = 31 - p)) ∧
  (∀ c : Count, c ≤ 0b100000 → ∃ x : Word, ∀ s : State, ∃ t, exec (.clz32 x) s = .next t ∧ t.count = c)

/-! ## SMASK -/

/-- R57: SMASK completes for every word, in every state. In the domain `mask` gets the contract's formula, outside it the
free value; nothing but the two ports of SmallestMask changes. With the rule's corner cases and example. -/
def Obligations.SmaskMakesTheCoveringMask : Prop :=
  ∀ (n : Word) (s : State), ∃ t, exec (.smask n) s = .next t ∧
    t = { s with n := n, mask := t.mask } ∧
    (1 ≤ n.toInt ∧ n.toInt ≤ 2 ^ 31 - 1 →
      t.mask = (1#32 <<< (32 - (clzContract n).toNat)) - 1#32 ∧
      1 ≤ 32 - (clzContract n).toNat ∧ 32 - (clzContract n).toNat ≤ 31) ∧
    (n = 0 ∨ n.getLsbD 31 = true → t.mask = Config.smOod n) ∧
    (n = 1 → t.mask = 1) ∧
    (n = 0x7FFFFFFF → t.mask = 0x7FFFFFFF) ∧
    (∀ j, j ≤ 30 → n = BitVec.ofNat 32 (2 ^ j) → t.mask.toNat = 2 ^ (j + 1) - 1) ∧
    (∀ k, 1 ≤ k → k ≤ 31 → n = BitVec.ofNat 32 (2 ^ k - 1) → t.mask = n) ∧
    (n = 1000 → t.mask = 1023)

/-- R58, R59, R60: conversion, count and width, in and out of the domain. The two logarithm forms of R60 are the same
width. -/
def Obligations.SmaskStagesUpToTheWidth : Prop :=
  (∀ n : Word,
    asUnsigned n = n ∧
    (n.getLsbD 31 = false → ((asUnsigned n).toNat : Int) = signedValue n) ∧
    (n.getLsbD 31 = true → ((asUnsigned n).toNat : Int) = signedValue n + 2 ^ 32 ∧ 2 ^ 31 ≤ (asUnsigned n).toNat)) ∧
  (∀ n : Word,
    smaskCount n = clz32 (asUnsigned n) ∧
    (inDomain n = true → 1 ≤ (smaskCount n).toNat ∧ (smaskCount n).toNat ≤ 31) ∧
    (n = 0 → smaskCount n = 32) ∧ (n.getLsbD 31 = true → smaskCount n = 0)) ∧
  (∀ n : Word,
    (smaskWidth n).toNat = 32 - (smaskCount n).toNat ∧ (smaskWidth n).toNat ≤ 32 ∧
    (smaskWidth n).toNat = bitLength n ∧
    (n ≠ 0 → (smaskWidth n).toNat = Nat.log 2 n.toNat + 1 ∧ (smaskWidth n).toNat = Nat.clog 2 (n.toNat + 1)) ∧
    (inDomain n = true → 1 ≤ (smaskWidth n).toNat ∧ (smaskWidth n).toNat ≤ 31 ∧ (smaskWidth n).getLsbD 5 = false) ∧
    (n = 0 ↔ smaskWidth n = 0) ∧ (n.getLsbD 31 = true ↔ (smaskWidth n).getLsbD 5 = true) ∧
    (n.getLsbD 31 = true → smaskWidth n = 0b100000)) ∧
  (asUnsigned 509 = 0x000001FD ∧ smaskCount 509 = 23 ∧ smaskWidth 509 = 9)

/-- R61, R62: the power of two and the decrement, for widths 1 to 31. -/
def Obligations.SmaskPowerAndDecrement : Prop :=
  (∀ w : Count, 1 ≤ w.toNat → w.toNat ≤ 31 →
    (smaskPower w).toNat = 2 ^ w.toNat ∧
    (∀ i, i < 32 → (smaskPower w).getLsbD i = decide (i = w.toNat)) ∧
    2 ≤ (smaskPower w).toNat ∧
    (smaskDecrement (smaskPower w)).toNat = 2 ^ w.toNat - 1 ∧
    (∀ i, i < 32 → (smaskDecrement (smaskPower w)).getLsbD i = decide (i < w.toNat)) ∧
    (smaskDecrement (smaskPower w)).getLsbD 31 = false ∧
    0 ≤ signedValue (smaskDecrement (smaskPower w))) ∧
  (smaskPower 1 = 0x00000002 ∧ smaskPower 31 = 0x80000000 ∧ smaskPower 9 = 0x00000200 ∧
    smaskDecrement 0x00000200 = 0x000001FF)

/-- R63: outside the domain SMASK completes too, and answers `SM_OOD(n)`, the same in every state and at every
repetition; in the domain the answer does not depend on `SM_OOD`. -/
def Obligations.SmaskOutsideItsDomain : Prop :=
  (∀ (n : Word) (s : State), n = 0 ∨ n.getLsbD 31 = true →
    exec (.smask n) s = .next { s with n := n, mask := Config.smOod n }) ∧
  (∀ n : Word, (inDomain n = true ↔ ¬(n = 0 ∨ n.getLsbD 31 = true)) ∧
    (inDomain n = true ↔ 1 ≤ signedValue n ∧ signedValue n ≤ 2 ^ 31 - 1) ∧
    (n = 0 ∨ n.getLsbD 31 = true ↔ signedValue n ≤ 0 ∨ 2 ^ 31 ≤ n.toNat)) ∧
  (∀ (n : Word) (ood ood' : Word → Word), inDomain n = true → smaskWith ood n = smaskWith ood' n) ∧
  (∀ (n : Word) (ood : Word → Word), inDomain n = false → smaskWith ood n = ood n)

/-- R64: what the three readings of the formula give outside the domain, that the equivalent datapaths (b) and (c) give
the WIDE values there, and that every count there is 0 or 32, for which datapath (a) is not defined. The machine follows
no reading: there `exec` puts the open `SM_OOD(n)` on port `mask` (R63), of which nothing more is said. -/
def Obligations.ReadingsOutsideTheDomain : Prop :=
  (smaskWide 0 = 0 ∧ smaskWrap 0 = 0 ∧ smaskZeroShift 0 = 0 ∧ smaskSmear 0 = 0 ∧ smaskThermometer 0 = 0) ∧
  (∀ n : Word, n.getLsbD 31 = true →
    smaskWide n = 0xFFFFFFFF ∧ smaskWrap n = 0x00000000 ∧ smaskZeroShift n = 0xFFFFFFFF ∧
    smaskSmear n = 0xFFFFFFFF ∧ smaskThermometer n = 0xFFFFFFFF) ∧
  (smaskCount 0 = 32 ∧ ∀ n : Word, n.getLsbD 31 = true → smaskCount n = 0) ∧
  (∀ (n : Word) (s : State), n = 0 ∨ n.getLsbD 31 = true →
    ∃ t, exec (.smask n) s = .next t ∧ t.n = n ∧ t.mask = Config.smOod n)

/-- R65: the closed forms (a) to (d), for every in-domain `n` without exception. -/
def Obligations.SmaskClosedForms : Prop :=
  ∀ (n : Word) (s : State), inDomain n = true → ∃ t, exec (.smask n) s = .next t ∧
    (t.mask.toNat = 2 ^ bitLength n - 1 ∧ bitLength n = Nat.log 2 n.toNat + 1) ∧
    (∃ k, t.mask.toNat = 2 ^ k - 1 ∧ n.toNat < 2 ^ k ∧ ∀ j, n.toNat < 2 ^ j → k ≤ j) ∧
    t.mask.toNat = 2 ^ Nat.clog 2 (n.toNat + 1) - 1 ∧
    (n.toNat ≤ t.mask.toNat ∧ ∀ k, n.toNat ≤ 2 ^ k - 1 → t.mask.toNat ≤ 2 ^ k - 1) ∧
    (∀ j, n.toNat = 2 ^ j → t.mask.toNat = 2 ^ (j + 1) - 1)

/-- R66: an exact mask is its own mask, 3, 7 and 15 among them. -/
def Obligations.ExactMasksStayFixed : Prop :=
  ∀ s : State,
    (∀ k, 1 ≤ k → k ≤ 31 →
      ∃ t, exec (.smask (BitVec.ofNat 32 (2 ^ k - 1))) s = .next t ∧ t.mask = BitVec.ofNat 32 (2 ^ k - 1)) ∧
    (∃ t, exec (.smask 1) s = .next t ∧ t.mask = 1) ∧
    (∃ t, exec (.smask 3) s = .next t ∧ t.mask = 3) ∧
    (∃ t, exec (.smask 7) s = .next t ∧ t.mask = 7) ∧
    (∃ t, exec (.smask 15) s = .next t ∧ t.mask = 15)

/-- R67: the range of the result, with both equality conditions, and the table row by row. -/
def Obligations.SmaskRangeAndTable : Prop :=
  (∀ (n : Word) (s : State), inDomain n = true → ∃ t, exec (.smask n) s = .next t ∧
    n.toNat ≤ t.mask.toNat ∧ t.mask.toNat ≤ 2 * n.toNat - 1 ∧
    (t.mask.toNat = n.toNat ↔ ∃ k, 1 ≤ k ∧ n.toNat = 2 ^ k - 1) ∧
    (t.mask.toNat = 2 * n.toNat - 1 ↔ ∃ j, n.toNat = 2 ^ j) ∧
    1 ≤ t.mask.toNat ∧ t.mask.toNat ≤ 2 ^ 31 - 1 ∧
    (∃ w, 1 ≤ w ∧ w ≤ 31 ∧ t.mask.toNat = 2 ^ w - 1) ∧
    t.mask.getLsbD 31 = false ∧
    (∀ r ∈ smaskRows, r.least ≤ n → n ≤ r.greatest →
      smaskWidth n = r.width ∧ smaskCount n = r.count ∧ t.mask = r.greatest)) ∧
  (∀ n : Word, inDomain n = true → ∃ r ∈ smaskRows, r.least ≤ n ∧ n ≤ r.greatest)

/-- R68: the source's testable properties of SMASK, as the rule corrects them. -/
def Obligations.SmaskTestableProperties : Prop :=
  (∀ (n : Word) (s s' : State), inDomain n = true →
    ∃ t t', exec (.smask n) s = .next t ∧ exec (.smask n) s' = .next t' ∧
      t.mask.toNat + 1 = 2 ^ (smaskWidth n).toNat ∧
      n.toNat ≤ t.mask.toNat ∧ t.mask.toNat ≠ 2 * n.toNat + 1 ∧
      (t.mask = n ↔ n &&& (n + 1) = 0) ∧ (t.mask = n ↔ ∃ k, 1 ≤ k ∧ n.toNat = 2 ^ k - 1) ∧
      t'.mask = t.mask) ∧
  (∀ (m n : Word) (s : State), inDomain m = true → inDomain n = true → m.toNat ≤ n.toNat →
    ∃ t u, exec (.smask m) s = .next t ∧ exec (.smask n) s = .next u ∧
      t.mask.toNat ≤ u.mask.toNat ∧ (t.mask ≠ u.mask → ∃ j, m.toNat < 2 ^ j ∧ 2 ^ j ≤ n.toNat))

/-- R69: three other datapaths give the answer of R58 to R62 for every in-domain `n`. -/
def Obligations.EquivalentMaskDatapaths : Prop :=
  ∀ (n : Word) (s : State), inDomain n = true → ∃ t, exec (.smask n) s = .next t ∧
    smaskShiftDown n = t.mask ∧ smaskSmear n = t.mask ∧ smaskThermometer n = t.mask

/-- R70: a result is an exact mask, is a legal input again, and is its own mask; and every exact mask, result or not, is
a fixed point. -/
def Obligations.SmaskIsIdempotent : Prop :=
  (∀ (n : Word) (s : State), inDomain n = true →
    ∃ t u, exec (.smask n) s = .next t ∧ exec (.smask t.mask) t = .next u ∧
      u.mask = t.mask ∧ inDomain t.mask = true ∧
      1 ≤ t.mask.toNat ∧ t.mask.toNat ≤ 2 ^ 31 - 1 ∧ (∃ k, 1 ≤ k ∧ k ≤ 31 ∧ t.mask.toNat = 2 ^ k - 1)) ∧
  (∀ (m : Word) (k : Nat) (s : State), 1 ≤ k → k ≤ 31 → m.toNat = 2 ^ k - 1 →
    inDomain m = true ∧ ∃ t, exec (.smask m) s = .next t ∧ t.mask = m)

/-! ## The block as a whole -/

/-- R71: no operation raises anything. Every evaluation answers a next state, and no step faults. -/
def Obligations.NothingRaisesAnException : Prop :=
  (∀ (i : Instr) (s : State), ∃ t, exec i s = .next t) ∧ (∀ (s : State) (f : Fault), step s ≠ .fault f)

/-- R72: the in-domain condition computed from the input is the domain of R63; no state but `n` and `mask` shows it. -/
def Obligations.DomainIsComputableFromTheInput : Prop :=
  (∀ n : Word, inDomain n = true ↔ n.getLsbD 31 = false ∧ n ≠ 0) ∧
  (∀ (n n' : Word) (s : State), ∃ t t', exec (.smask n) s = .next t ∧ exec (.smask n') s = .next t' ∧
    { t with n := s.n, mask := s.mask } = { t' with n := s.n, mask := s.mask })

/-- R16: an output depends on the word of its own evaluation and on nothing before it or between. -/
def Obligations.AnswersDependOnTheWordAlone : Prop :=
  (∀ (x : Word) (j : Instr) (s s' : State), ∃ t u v,
    exec (.clz32 x) s = .next t ∧ exec j s' = .next u ∧ exec (.clz32 x) u = .next v ∧ v.count = t.count) ∧
  (∀ (n : Word) (j : Instr) (s s' : State), ∃ t u v,
    exec (.smask n) s = .next t ∧ exec j s' = .next u ∧ exec (.smask n) u = .next v ∧ v.mask = t.mask)

/-- R15 and R83: the two components share nothing, so evaluations on the two ports commute. -/
def Obligations.ComponentsDoNotInterfere : Prop :=
  ∀ (x n : Word) (s : State), ∃ t u v,
    exec (.clz32 x) s = .next t ∧ exec (.smask n) s = .next u ∧
    exec (.smask n) t = .next v ∧ exec (.clz32 x) u = .next v ∧
    v.count = t.count ∧ v.mask = u.mask ∧ t.n = s.n ∧ t.mask = s.mask ∧ u.x = s.x ∧ u.count = s.count

/-- R21: an evaluation reads and writes nothing but the block's ports: every byte of memory, the store events and the
environment's data stay, and the answer does not depend on them. -/
def Obligations.EvaluationTouchesNoMemory : Prop :=
  ∀ (i : Instr) (s s' : State), ∃ t t', exec i s = .next t ∧ exec i s' = .next t' ∧
    (∀ a, t.mem.readByte a = s.mem.readByte a) ∧ t.mem = s.mem ∧ t.stores = s.stores ∧ t.outBase = s.outBase ∧
    t.script = s.script ∧ t.names = s.names ∧
    (s'.x = s.x → s'.count = s.count → s'.n = s.n → s'.mask = s.mask →
      t'.x = t.x ∧ t'.count = t.count ∧ t'.n = t.n ∧ t'.mask = t.mask)

/-! ## The environment -/

/-- R37: an evaluation line binds its name to the answer, `CLZ32`'s zero-extended (R32); the other names, the memory and
the store events stay. The form of the lines is the model's (log entry 8). -/
def Obligations.EvaluationLinesBindTheirAnswers : Prop :=
  (∀ (s : State) (r : Name) (op : Operand) (x : Word) (rest : Script),
    operandValue op s = .ok x →
    ∃ t, step { s with script := .clz32 (some r) op :: rest } = .next t ∧
      boundWord r t = some ((clzContract x).setWidth 32) ∧
      (∀ r', r' ≠ r → boundWord r' t = boundWord r' s) ∧
      t = { s with x := x, count := clzContract x, script := rest, names := t.names }) ∧
  (∀ (s : State) (r : Name) (op : Operand) (n : Word) (rest : Script),
    operandValue op s = .ok n → inDomain n = true →
    ∃ t, step { s with script := .smask (some r) op :: rest } = .next t ∧
      boundWord r t = some (BitVec.ofNat 32 (2 ^ bitLength n - 1)) ∧
      (∀ r', r' ≠ r → boundWord r' t = boundWord r' s) ∧
      t = { s with n := n, mask := BitVec.ofNat 32 (2 ^ bitLength n - 1), script := rest, names := t.names }) ∧
  (∀ (s : State) (r : Name) (op : Operand) (n : Word) (rest : Script),
    operandValue op s = .ok n → inDomain n = false →
    ∃ t, step { s with script := .smask (some r) op :: rest } = .next t ∧
      boundWord r t = some (Config.smOod n) ∧
      (∀ r', r' ≠ r → boundWord r' t = boundWord r' s) ∧
      t = { s with n := n, mask := Config.smOod n, script := rest, names := t.names })

/-- R38: BITLEN is CLZ32 and then `len = 32 - count`, which never wraps and is the bit length; 0 for zero. For every
operand that has a value, with a destination and without one. That a BITLEN line is one step, and that it binds a
numbered 32-bit name or none, is the model's choice (log entry 8, DESIGN CHOICE). -/
def Obligations.BitlenIsThirtyTwoMinusTheCount : Prop :=
  (∀ (s : State) (r : Name) (op : Operand) (x : Word) (rest : Script), operandValue op s = .ok x →
    ∃ t u, step { s with script := .bitlen (some r) op :: rest } = .next t ∧
      exec (.clz32 x) { s with script := rest } = .next u ∧
      t = { u with names := t.names } ∧
      boundWord r t = some (BitVec.ofNat 32 (32 - u.count.toNat)) ∧ u.count.toNat ≤ 32 ∧
      (∀ r', r' ≠ r → boundWord r' t = boundWord r' s) ∧
      (x = 0 → boundWord r t = some 0)) ∧
  (∀ (s : State) (op : Operand) (x : Word) (rest : Script), operandValue op s = .ok x →
    ∃ u, exec (.clz32 x) { s with script := rest } = .next u ∧
      step { s with script := .bitlen none op :: rest } = .next u) ∧
  (∀ x : Word, (bitlenOfCount (clz32 x)).toNat = bitLength x ∧ bitlenOfCount (clz32 x) = smaskWidth x)

/-- R23 and R26: a STORE line makes one event of one word at `OUT_BASE + offset`, for each offset of the map, whatever
word its name is bound to; the word reads back, and every byte outside it is as before. The field `outBase` and the list
of events in State are the model's choice (log entries 5 and 10), and so is the numbered name (log entry 8). -/
def Obligations.StoreWritesOneAlignedWord : Prop :=
  ∀ (s : State) (offset : Nat) (src : Name) (v : Word) (rest : Script),
    s.outBase % 4 = 0 → offset = 4 ∨ offset = 8 ∨ offset = 12 → boundWord src s = some v →
    ∃ t, step { s with script := .store offset src :: rest } = .next t ∧
      t.stores = s.stores ++ [⟨s.outBase + offset, v⟩] ∧
      t.mem.readWord Config.hostByteOrder (s.outBase + offset) = some v ∧
      (∀ a, a < s.outBase + offset ∨ s.outBase + offset + 4 ≤ a → t.mem.readByte a = s.mem.readByte a) ∧
      t = { s with script := rest, mem := t.mem, stores := t.stores }

/-- R25: a store at an address that is not a multiple of 4 is refused, whatever the offset and the word. -/
def Obligations.MisalignedStoreIsRefused : Prop :=
  ∀ (s : State) (offset : Nat) (src : Name) (v : Word) (rest : Script),
    boundWord src s = some v → (s.outBase + offset) % 4 ≠ 0 →
    step { s with script := .store offset src :: rest } = .refused (.misalignedStore (s.outBase + offset))

/-- The model's stops besides the misaligned store: an aligned store outside the memory map (U4 of
93_implementation_defined.md, log entry 9), a name nothing has bound (log entry 8), and no line left (log entry 7). -/
def Obligations.OtherEnvironmentStops : Prop :=
  (∀ (s : State) (offset : Nat) (src : Name) (v : Word) (rest : Script),
    boundWord src s = some v → (s.outBase + offset) % 4 = 0 → offset ≠ 4 → offset ≠ 8 → offset ≠ 12 →
    step { s with script := .store offset src :: rest } = .refused (.addressNotDefined (s.outBase + offset))) ∧
  (∀ (s : State) (r : Name) (offset : Nat) (dest : Option Name) (rest : Script), boundWord r s = none →
    step { s with script := .store offset r :: rest } = .refused (.unboundName r) ∧
    step { s with script := .clz32 dest (.name r) :: rest } = .refused (.unboundName r) ∧
    step { s with script := .smask dest (.name r) :: rest } = .refused (.unboundName r) ∧
    step { s with script := .bitlen dest (.name r) :: rest } = .refused (.unboundName r)) ∧
  (∀ s : State, step { s with script := [] } = .refused .nothingPresented)

/-- R24 and D16: a word stored in either byte order reads back whole in that order; its bytes are the word's in rising
or falling significance; every other byte is as before. -/
def Obligations.WordsReadBackInEitherByteOrder : Prop :=
  ∀ (o : ByteOrder) (a : Nat) (v : Word) (m : Memory),
    (Memory.writeWord o a v m).readWord o a = some v ∧
    (∀ i, i < 4 → (Memory.writeWord .little a v m).readByte (a + i) = some (v.extractLsb' (8 * i) 8)) ∧
    (∀ i, i < 4 → (Memory.writeWord .big a v m).readByte (a + i) = some (v.extractLsb' (24 - 8 * i) 8)) ∧
    (∀ b, b < a ∨ a + 4 ≤ b → (Memory.writeWord o a v m).readByte b = m.readByte b)

/-- R23: the driver's three results stand at `OUT_BASE + 4`, `+ 8` and `+ 12`, stored in that order, from any contents of
memory; every other byte is as before. That the driver stands in State as a script is the model's choice (log entry 7), and
so are the names of its results (log entry 8) and the field `outBase` (log entry 5). -/
def Obligations.DriverLeavesItsThreeResults : Prop :=
  ∀ s : State, s.outBase % 4 = 0 →
    ∃ t : State, Host.Core.run Sys2Proof.core 6 { s with script := driverScript } = .next t ∧
      t.mem.readWord Config.hostByteOrder (s.outBase + 4) = some 1 ∧
      t.mem.readWord Config.hostByteOrder (s.outBase + 8) = some 511 ∧
      t.mem.readWord Config.hostByteOrder (s.outBase + 12) = some 1023 ∧
      t.stores = s.stores ++ [⟨s.outBase + 4, 1⟩, ⟨s.outBase + 8, 511⟩, ⟨s.outBase + 12, 1023⟩] ∧
      (∀ a, a < s.outBase + 4 ∨ s.outBase + 16 ≤ a → t.mem.readByte a = s.mem.readByte a) ∧
      t.script = [] ∧ t.x = s.x ∧ t.count = s.count ∧ t.outBase = s.outBase

/-! ## Reset, invariants and safety -/

/-- What reset leaves, by the model's choice (log entries 2, 5, 7 to 10): the spec gives no reset value (R20). -/
def Obligations.ResetLeavesTheChosenValues : Prop :=
  State.reset.x = 0 ∧ State.reset.count = 32 ∧ State.reset.n = 0 ∧ State.reset.mask = smask 0 ∧
  State.reset.script = [] ∧ State.reset.names = [] ∧ State.reset.outBase = 0 ∧ State.reset.mem = [] ∧
  State.reset.stores = []

/-- The state after reset has the invariant: each output is its function of the input (R20), and memory is canonical.
WHAT THE PORTS HOLD AT RESET IS THE MODEL'S CHOICE (log entry 2, DESIGN CHOICE, unsafe): R81 says that the outputs mean
nothing before the inputs are driven. That no line, name, byte or store event is there is the model's choice too (log
entries 7 to 10). -/
def Obligations.ResetHasTheInvariant : Prop :=
  Inv State.reset

/-- Every step keeps the invariant: each output carries its function of the word on its input (R20); memory and names
keep their canonical form; every store was aligned (R25) and in the map; memory is what the store events put there. The
model's choices in it (each a DESIGN CHOICE): the ports held in State (log entry 1), the bound names as a sorted list
(log entry 8), the map of three words and memory counted from bytes nothing has written (log entry 9), the store events
kept in State (log entry 10). -/
def Obligations.StepKeepsTheInvariant : Prop :=
  ∀ s t : State, Inv s → step s = .next t → Inv t

/-- From a state whose script is well formed, no step stops before the script's end: the next step completes, keeps the
script well formed, and the whole script runs through. The script and what makes it well formed are the model's choice (log
entries 7, 8 and 9). -/
def Obligations.WellFormedScriptNeverStops : Prop :=
  (∀ s : State, ScriptSafe s → s.script ≠ [] →
    ∃ t, step s = .next t ∧ ScriptSafe t ∧ t.script = s.script.tail) ∧
  (∀ s : State, ScriptSafe s →
    ∃ t : State, Host.Core.run Sys2Proof.core s.script.length s = .next t ∧ t.script = [] ∧ t.outBase = s.outBase)
end

