-- ==== Sys2Proof/Laws/Clz32.lean ====
section
/-! SUPPORT. What one CLZ32 round can do, in exact arithmetic, and what the search for the highest set bit answers. -/

namespace Sys2Proof.Machine

/-- Everything a round can do: it is taken, and divides the value by `2^c` and lowers the width by `c`; or the value is
below `2^c`, and nothing changes. -/
theorem clzRound_spec (c : Nat) (r : Running) :
    (clzTaken c r = true ∧ r.value.toNat / 2 ^ c ≠ 0 ∧ (clzRound c r).value.toNat = r.value.toNat / 2 ^ c ∧
      (clzRound c r).width = r.width - BitVec.ofNat 6 c) ∨
    (clzTaken c r = false ∧ r.value.toNat < 2 ^ c ∧ clzRound c r = r) := by
  have hp : (clzProbe c r).toNat = r.value.toNat / 2 ^ c := by
    rw [clzProbe, BitVec.toNat_ushiftRight, Nat.shiftRight_eq_div_pow]
  cases ht : clzTaken c r with
  | true =>
    have hne : clzProbe c r ≠ 0#32 := by simpa [clzTaken, nonzero] using ht
    refine Or.inl ⟨rfl, fun h0 => hne (BitVec.eq_of_toNat_eq ?_), ?_, ?_⟩
    · rw [hp, h0]; rfl
    · simp [clzRound, ht, hp]
    · simp [clzRound, ht]
  | false =>
    have h0 : clzProbe c r = 0#32 := by simpa [clzTaken, nonzero] using ht
    refine Or.inr ⟨rfl, ?_, by simp [clzRound, ht]⟩
    rw [h0] at hp
    exact (Nat.div_eq_zero_iff_lt (Nat.two_pow_pos c)).mp hp.symm

/-- The search answers the highest set bit below its bound. -/
theorem highestSetBelow_some {x : Word} {k p : Nat} (h : highestSetBelow x k = some p) :
    p < k ∧ x.getLsbD p = true ∧ ∀ i, p < i → i < k → x.getLsbD i = false := by
  induction k with
  | zero => simp [highestSetBelow] at h
  | succ k ih =>
    rw [highestSetBelow] at h
    cases hk : x.getLsbD k with
    | true =>
      simp only [hk, if_true, Option.some.injEq] at h
      subst h
      exact ⟨Nat.lt_succ_self _, hk, fun i h1 h2 => by omega⟩
    | false =>
      simp only [hk, Bool.false_eq_true, if_false] at h
      obtain ⟨hp, hb, hz⟩ := ih h
      refine ⟨by omega, hb, fun i h1 h2 => ?_⟩
      by_cases hi : i = k
      · rw [hi, hk]
      · exact hz i h1 (by omega)

/-- The search answers none only where every bit below its bound is 0. -/
theorem highestSetBelow_none {x : Word} {k : Nat} (h : highestSetBelow x k = none) :
    ∀ i, i < k → x.getLsbD i = false := by
  induction k with
  | zero => exact fun i hi => by omega
  | succ k ih =>
    rw [highestSetBelow] at h
    cases hk : x.getLsbD k with
    | true => simp [hk] at h
    | false =>
      simp only [hk, Bool.false_eq_true, if_false] at h
      intro i hi
      by_cases hik : i = k
      · rw [hik, hk]
      · exact ih h i (by omega)

end Sys2Proof.Machine
end

