-- ==== Sys2Proof/Laws/State.lean ====
section
/-! SUPPORT. One lemma per field per update of State, and what each shared operation can do. -/

namespace Sys2Proof.Machine

@[simp] theorem answerClz32_x (x : Word) (c : Count) (s : State) : (answerClz32 x c s).x = x := rfl
@[simp] theorem answerClz32_count (x : Word) (c : Count) (s : State) : (answerClz32 x c s).count = c := rfl
@[simp] theorem answerClz32_n (x : Word) (c : Count) (s : State) : (answerClz32 x c s).n = s.n := rfl
@[simp] theorem answerClz32_mask (x : Word) (c : Count) (s : State) : (answerClz32 x c s).mask = s.mask := rfl
@[simp] theorem answerClz32_script (x : Word) (c : Count) (s : State) : (answerClz32 x c s).script = s.script := rfl
@[simp] theorem answerClz32_names (x : Word) (c : Count) (s : State) : (answerClz32 x c s).names = s.names := rfl
@[simp] theorem answerClz32_outBase (x : Word) (c : Count) (s : State) : (answerClz32 x c s).outBase = s.outBase := rfl
@[simp] theorem answerClz32_mem (x : Word) (c : Count) (s : State) : (answerClz32 x c s).mem = s.mem := rfl
@[simp] theorem answerClz32_stores (x : Word) (c : Count) (s : State) : (answerClz32 x c s).stores = s.stores := rfl

@[simp] theorem answerSmask_x (n m : Word) (s : State) : (answerSmask n m s).x = s.x := rfl
@[simp] theorem answerSmask_count (n m : Word) (s : State) : (answerSmask n m s).count = s.count := rfl
@[simp] theorem answerSmask_n (n m : Word) (s : State) : (answerSmask n m s).n = n := rfl
@[simp] theorem answerSmask_mask (n m : Word) (s : State) : (answerSmask n m s).mask = m := rfl
@[simp] theorem answerSmask_script (n m : Word) (s : State) : (answerSmask n m s).script = s.script := rfl
@[simp] theorem answerSmask_names (n m : Word) (s : State) : (answerSmask n m s).names = s.names := rfl
@[simp] theorem answerSmask_outBase (n m : Word) (s : State) : (answerSmask n m s).outBase = s.outBase := rfl
@[simp] theorem answerSmask_mem (n m : Word) (s : State) : (answerSmask n m s).mem = s.mem := rfl
@[simp] theorem answerSmask_stores (n m : Word) (s : State) : (answerSmask n m s).stores = s.stores := rfl

@[simp] theorem setScript_x (r : Script) (s : State) : (setScript r s).x = s.x := rfl
@[simp] theorem setScript_count (r : Script) (s : State) : (setScript r s).count = s.count := rfl
@[simp] theorem setScript_n (r : Script) (s : State) : (setScript r s).n = s.n := rfl
@[simp] theorem setScript_mask (r : Script) (s : State) : (setScript r s).mask = s.mask := rfl
@[simp] theorem setScript_script (r : Script) (s : State) : (setScript r s).script = r := rfl
@[simp] theorem setScript_names (r : Script) (s : State) : (setScript r s).names = s.names := rfl
@[simp] theorem setScript_outBase (r : Script) (s : State) : (setScript r s).outBase = s.outBase := rfl
@[simp] theorem setScript_mem (r : Script) (s : State) : (setScript r s).mem = s.mem := rfl
@[simp] theorem setScript_stores (r : Script) (s : State) : (setScript r s).stores = s.stores := rfl

@[simp] theorem setScript_setScript (r r' : Script) (s : State) : setScript r (setScript r' s) = setScript r s := rfl
@[simp] theorem setScript_self (s : State) : setScript s.script s = s := rfl

@[simp] theorem bindName_none (w : Word) (s : State) : bindName none w s = s := rfl
@[simp] theorem bindName_x (d : Option Name) (w : Word) (s : State) : (bindName d w s).x = s.x := by cases d <;> rfl
@[simp] theorem bindName_count (d : Option Name) (w : Word) (s : State) : (bindName d w s).count = s.count := by cases d <;> rfl
@[simp] theorem bindName_n (d : Option Name) (w : Word) (s : State) : (bindName d w s).n = s.n := by cases d <;> rfl
@[simp] theorem bindName_mask (d : Option Name) (w : Word) (s : State) : (bindName d w s).mask = s.mask := by cases d <;> rfl
@[simp] theorem bindName_script (d : Option Name) (w : Word) (s : State) : (bindName d w s).script = s.script := by cases d <;> rfl
@[simp] theorem bindName_names_some (r : Name) (w : Word) (s : State) : (bindName (some r) w s).names = assocInsert r w s.names := rfl
@[simp] theorem bindName_outBase (d : Option Name) (w : Word) (s : State) : (bindName d w s).outBase = s.outBase := by cases d <;> rfl
@[simp] theorem bindName_mem (d : Option Name) (w : Word) (s : State) : (bindName d w s).mem = s.mem := by cases d <;> rfl
@[simp] theorem bindName_stores (d : Option Name) (w : Word) (s : State) : (bindName d w s).stores = s.stores := by cases d <;> rfl

/-- Everything a word store can do when it answers a next state. -/
theorem memWrite_next {addr : Nat} {v : Word} {s t : State} (h : memWrite addr v s = .next t) :
    addr % 4 = 0 ∧ hostDefines s.outBase addr = true ∧
      t = { s with mem := Memory.writeWord Config.hostByteOrder addr v s.mem, stores := s.stores ++ [⟨addr, v⟩] } := by
  unfold memWrite at h
  split at h
  · cases h
  · rename_i h4
    split at h
    · cases h
    · rename_i hd
      cases h
      exact ⟨by omega, by simpa using hd, rfl⟩

/-- A word store at an aligned address of the map completes. -/
theorem memWrite_of_defined {addr : Nat} {v : Word} {s : State} (h4 : addr % 4 = 0)
    (hd : hostDefines s.outBase addr = true) :
    memWrite addr v s =
      .next { s with mem := Memory.writeWord Config.hostByteOrder addr v s.mem, stores := s.stores ++ [⟨addr, v⟩] } := by
  simp [memWrite, h4, hd]

end Sys2Proof.Machine
end

