-- ==== Sys2Proof/Laws/Environment.lean ====
section
/-! SUPPORT. What a line, and so a step, can do when it answers a next state. -/

namespace Sys2Proof.Machine

/-- An evaluation of the block always completes with its answer on its ports. -/
theorem exec_next (i : Instr) (s : State) :
    exec i s = .next (match i with
      | .clz32 x => answerClz32 x (clz32 x) s
      | .smask n => answerSmask n (smask n) s) := by
  cases i <;> rfl

/-- Taking an answer can bind a name and nothing else. -/
theorem takeAnswer_eq (l : Line) (t : State) : takeAnswer l t = { t with names := (takeAnswer l t).names } := by
  cases l with
  | store => rfl
  | clz32 dest => cases dest <;> rfl
  | smask dest => cases dest <;> rfl
  | bitlen dest => cases dest <;> rfl

/-- An operand has a value when it is a literal, or a name that is bound. -/
theorem operandValue_ok_iff (op : Operand) (s : State) (w : Word) :
    operandValue op s = .ok w ↔ op = .lit w ∨ ∃ r, op = .name r ∧ boundWord r s = some w := by
  cases op with
  | lit v => simp [operandValue]
  | name r => cases h : boundWord r s <;> simp [operandValue, h]

/-- Everything an evaluating line can do when it answers a next state. -/
theorem evaluate_next {l : Line} {p : InPort} {op : Operand} {s t : State} (h : evaluate l p op s = .next t) :
    ∃ w u, operandValue op s = .ok w ∧ exec (decode ⟨p, w⟩) s = .next u ∧ t = takeAnswer l u := by
  unfold evaluate at h
  split at h
  · cases h
  · rename_i w hw
    split at h
    · rename_i u hu
      cases h
      exact ⟨w, u, hw, hu, rfl⟩
    · cases h
    · cases h

/-- Everything a STORE line can do when it answers a next state. -/
theorem storeNamed_next {offset : Nat} {src : Name} {s t : State} (h : storeNamed offset src s = .next t) :
    ∃ v, boundWord src s = some v ∧ memWrite (storeAddress s offset) v s = .next t := by
  unfold storeNamed at h
  split at h
  · cases h
  · rename_i v hv
    exact ⟨v, hv, h⟩

/-- A step that answers a next state took the first line off the script and performed it. -/
theorem step_next {s t : State} (h : step s = .next t) :
    ∃ l rest, s.script = l :: rest ∧ runLine l (setScript rest s) = .next t := by
  unfold step environmentStep at h
  split at h
  · cases h
  · rename_i l rest hs
    exact ⟨l, rest, hs, h⟩

end Sys2Proof.Machine
end

