-- ==== Sys2Proof/Laws/Memory.lean ====
section
/-! SUPPORT. The laws of the sorted lists and of host memory: reading after writing, and the canonical form. -/

namespace Sys2Proof.Machine

section Assoc
variable {α : Type}

/-- What is listed under a key after a write: the value written under its own key, and under every other key what was
there before. -/
theorem assocFind_assocInsert (j k : Nat) (v : α) (l : List (Nat × α)) :
    assocFind j (assocInsert k v l) = if j = k then some v else assocFind j l := by
  induction l with
  | nil => simp [assocInsert, assocFind]
  | cons e rest ih =>
    obtain ⟨k', v'⟩ := e
    by_cases h1 : k < k'
    · simp [assocInsert, h1, assocFind]
    · by_cases h2 : k = k'
      · subst h2
        by_cases hj : j = k <;> simp [assocInsert, assocFind, hj]
      · by_cases hj : j = k'
        · simp [assocInsert, h1, h2, assocFind, hj, Ne.symm h2]
        · simp [assocInsert, h1, h2, assocFind, hj, ih]

/-- Rising above some bound, spelled with the bound. -/
theorem assocRisingFrom_some_iff (lo k : Nat) (v : α) (rest : List (Nat × α)) :
    assocRisingFrom (some lo) ((k, v) :: rest) = true ↔ lo < k ∧ assocRisingFrom (some k) rest = true := by
  simp [assocRisingFrom]

/-- A write above a bound keeps the keys rising above it. -/
theorem assocRisingFrom_assocInsert (lo k : Nat) (v : α) (l : List (Nat × α)) (hk : lo < k)
    (h : assocRisingFrom (some lo) l = true) : assocRisingFrom (some lo) (assocInsert k v l) = true := by
  induction l generalizing lo with
  | nil => simpa [assocInsert, assocRisingFrom] using hk
  | cons e rest ih =>
    obtain ⟨k', v'⟩ := e
    rw [assocRisingFrom_some_iff] at h
    by_cases h1 : k < k'
    · simp [assocInsert, h1, assocRisingFrom, hk, h.2]
    · by_cases h2 : k = k'
      · subst h2
        simp [assocInsert, assocRisingFrom, h]
      · simp [assocInsert, h1, h2, assocRisingFrom, h.1, ih k' (by omega) h.2]

/-- A write keeps the keys rising. -/
theorem assocRising_assocInsert (k : Nat) (v : α) (l : List (Nat × α)) (h : assocRising l = true) :
    assocRising (assocInsert k v l) = true := by
  unfold assocRising at *
  cases l with
  | nil => simp [assocInsert, assocRisingFrom]
  | cons e rest =>
    obtain ⟨k', v'⟩ := e
    simp only [assocRisingFrom] at h
    by_cases h1 : k < k'
    · simp [assocInsert, h1, assocRisingFrom, h]
    · by_cases h2 : k = k'
      · subst h2
        simp [assocInsert, assocRisingFrom, h]
      · simp [assocInsert, h1, h2, assocRisingFrom,
          assocRisingFrom_assocInsert k' k v rest (by omega) h]

end Assoc

/-- A byte reads back where it was written, and every other address reads as before. -/
theorem readByte_writeByte (j a : Nat) (b : Byte) (m : Memory) :
    (Memory.writeByte a b m).readByte j = if j = a then some b else m.readByte j :=
  assocFind_assocInsert j a b m

/-- Writing a byte keeps the canonical form. -/
theorem writeByte_wf (a : Nat) (b : Byte) (m : Memory) (h : Memory.wf m = true) :
    Memory.wf (Memory.writeByte a b m) = true :=
  assocRising_assocInsert a b m h

/-- Writing a word keeps the canonical form. -/
theorem writeWord_wf (o : ByteOrder) (a : Nat) (v : Word) (m : Memory) (h : Memory.wf m = true) :
    Memory.wf (Memory.writeWord o a v m) = true :=
  writeByte_wf _ _ _ (writeByte_wf _ _ _ (writeByte_wf _ _ _ (writeByte_wf _ _ _ h)))

/-- Every byte after a word store: the word's four bytes at its address, and every other byte as before. -/
theorem readByte_writeWord (o : ByteOrder) (j a : Nat) (v : Word) (m : Memory) :
    (Memory.writeWord o a v m).readByte j =
      if a ≤ j ∧ j < a + 4 then some (byteOfWord o v (j - a)) else m.readByte j := by
  simp only [Memory.writeWord, readByte_writeByte]
  by_cases h3 : j = a + 3
  · subst h3; simp
  by_cases h2 : j = a + 2
  · subst h2; simp
  by_cases h1 : j = a + 1
  · subst h1; simp
  by_cases h0 : j = a
  · subst h0; simp
  · have : ¬(a ≤ j ∧ j < a + 4) := by omega
    simp [h0, h1, h2, h3, this]

/-- A word store that completes keeps the canonical form of host memory. -/
theorem memWrite_wf {addr : Nat} {v : Word} {s t : State} (h : memWrite addr v s = .next t)
    (hw : Memory.wf s.mem = true) : Memory.wf t.mem = true := by
  obtain ⟨-, -, rfl⟩ := memWrite_next h
  exact writeWord_wf _ _ _ _ hw

/-- Host memory after reset has the canonical form. -/
theorem reset_mem_wf : Memory.wf State.reset.mem = true := rfl

/-- The bytes of a word put together in its order are the word. -/
theorem wordOfBytes_byteOfWord (o : ByteOrder) (v : Word) :
    wordOfBytes o (byteOfWord o v 0) (byteOfWord o v 1) (byteOfWord o v 2) (byteOfWord o v 3) = v := by
  cases o <;>
  · apply BitVec.eq_of_getLsbD_eq
    intro i hi
    simp only [wordOfBytes, byteOfWord, BitVec.getLsbD_append, BitVec.getLsbD_extractLsb']
    interval_cases i <;> rfl

end Sys2Proof.Machine
end

