-- ==== Sys2Proof/Laws/PerInstr.lean ====
section
/-! SUPPORT. Statements about every instruction as syntax, one lemma per constructor. -/

namespace Sys2Proof.Laws

/-- An instruction is well formed, and is what its own presentation decodes to. -/
def PresentationRoundTrip.Statement (i : Instr) : Prop :=
  i.wellFormed = true ∧ decode (encode i) = i

theorem PresentationRoundTrip.clz32 (x : Word) : PresentationRoundTrip.Statement (.clz32 x) :=
  ⟨rfl, rfl⟩

theorem PresentationRoundTrip.smask (n : Word) : PresentationRoundTrip.Statement (.smask n) :=
  ⟨rfl, rfl⟩

end Sys2Proof.Laws
end

