-- ==== Sys2Proof/Tests/Slice0.lean ====
section
/-! SUPPORT. Tests. Expected values are the spec's own: the examples and tables of 40_clz32.md, 41_smallest_mask.md and
95_test_vectors.md, as each test says. The witnesses at the end show states that meet the hypotheses of the
statements. -/

namespace Sys2Proof.Tests

open Sys2Proof.Machine

/-- A small state: some words on the ports, name 1 bound to 509, `OUT_BASE` = 0, and the given script. -/
def small (script : Script) : State :=
  { State.reset with x := 5, count := 29, n := 3, mask := 3, script := script, names := [(1, 509)] }

/-- The state of an outcome that goes on. -/
def nextOf : Host.Outcome State Fault Refusal → Option State
  | .next t => some t
  | _ => none

/-- The refusal of an outcome that is refused. -/
def refusalOf : Host.Outcome State Fault Refusal → Option Refusal
  | .refused r => some r
  | _ => none

/-! Well-formedness: each check refuses an ill-formed line; the source's driver passes. -/

theorem test_wf_refuses_unbound_operand : lineWellFormed 0 [1] (.clz32 none (.name 2)) = false := by decide
theorem test_wf_refuses_unbound_store : lineWellFormed 0 [1] (.store 4 2) = false := by decide
theorem test_wf_refuses_misaligned_store : lineWellFormed 2 [1] (.store 4 1) = false := by decide
theorem test_wf_refuses_undefined_address : lineWellFormed 0 [1] (.store 16 1) = false := by decide
theorem test_wf_refuses_later_bound_name :
    scriptWellFormed 0 [] [.store 4 1, .smask (some 1) (.lit 1)] = false := by decide
theorem test_wf_accepts_driver : scriptWellFormed 0 [] driverScript = true := by decide
theorem test_wf_every_instr : Instr.wellFormed (.smask 0) = true ∧ Instr.wellFormed (.clz32 0) = true := by decide

/-! Decoding: the words of 95_test_vectors.md P1 and P2, written out bit by bit. -/

theorem test_decode_clz32 :
    decode ⟨.x, 0b00000000000000000000001111101000⟩ = .clz32 1000 := by decide
theorem test_decode_smask :
    decode ⟨.n, 0b00000000000000000000000111111101⟩ = .smask 509 := by decide
theorem test_decode_table_word_on_x :
    decodeTableWord 32 0b00000000000000000000001111101000 = some (.clz32 1000) := by decide
theorem test_decode_table_word_on_n :
    decodeTableWord 40 0b0000000100000000000000000000000111111101 = some (.smask 509) := by decide
theorem test_decode_rejects_port_2 : decodeTableWord 40 0x0200000000 = none := by decide
theorem test_encode_smask : encodeBits (.smask 509) = 0x1000001FD := by decide

/-! The operations. Rows of 95_test_vectors.md 2.2, 2.3, S3 and 2.4. -/

theorem test_clz32_zero : clz32 0 = 0b100000 := by decide
theorem test_clz32_drops_nonzero_low_half :
    (nextOf (exec (.clz32 0x00018001) (small []))).map (fun t => (t.count, t.mask)) = some (15, 3) := by decide
theorem test_clz32_trace_of_deadbeef :
    [clzX 1 0xDEADBEEF, clzX 2 0xDEADBEEF, clzX 3 0xDEADBEEF, clzX 4 0xDEADBEEF, clzX 5 0xDEADBEEF] =
      [0xDEAD, 0xDE, 0xD, 0x3, 0x1] ∧ clzN 5 0xDEADBEEF = 1 := by decide
theorem test_smask_exact_mask :
    (nextOf (exec (.smask 3) (small []))).map (fun t => (t.mask, t.count)) = some (3, 29) := by decide
theorem test_smask_greatest : smask 0x7FFFFFFF = 0x7FFFFFFF ∧ smask 0x40000000 = 0x7FFFFFFF := by decide
theorem test_smear_of_1000 : smearStep 1 0x000003E8 = 0x000003FC ∧ smaskSmear 0x000003E8 = 0x000003FF := by decide
theorem test_contract_of_509 : clzContract 0x000001FD = 23 ∧ bitLength 0x000001FD = 9 := by decide

/-! The environment. 95_test_vectors.md P1 (a store), 2.6 (BITLEN), rules R25 and U4. -/

theorem test_bitlen_of_zero_binds_zero :
    (nextOf (step (small [.bitlen (some 2) (.lit 0)]))).map (fun t => (t.names, t.count)) =
      some ([(1, 509), (2, 0)], 32) := by decide
theorem test_smask_of_bound_name :
    (nextOf (step (small [.smask (some 2) (.name 1)]))).map (fun t => (t.names, t.script)) =
      some ([(1, 509), (2, 511)], []) := by decide
theorem test_store_makes_one_event :
    (nextOf (step (small [.store 8 1]))).map (fun t => t.stores) = some [⟨8, 509⟩] := by decide
theorem test_store_misaligned : refusalOf (step (small [.store 6 1])) = some (.misalignedStore 6) := by decide
theorem test_store_undefined : refusalOf (step (small [.store 0 1])) = some (.addressNotDefined 0) := by decide
theorem test_no_line_left : refusalOf (step (small [])) = some .nothingPresented := by decide
theorem test_little_endian_bytes :
    Memory.writeWord .little 4 0x12345678 [] = [(4, 0x78), (5, 0x56), (6, 0x34), (7, 0x12)] := by decide
theorem test_big_endian_bytes :
    Memory.writeWord .big 4 0x12345678 [] = [(4, 0x12), (5, 0x34), (6, 0x56), (7, 0x78)] := by decide
theorem test_fetch_word_runs_first_after_reset :
    (nextOf (step (State.reset.withFetchWord 32 0x00F00000))).map (fun t => t.count) = some 8 := by decide
theorem test_fetch_word_on_port_n :
    (nextOf (step (State.reset.withFetchWord 40 0x1000003E8))).map (fun t => t.mask) = some 1023 := by decide

/-! Witnesses: states and operands that meet the hypotheses of the statements, at boundary values. -/

theorem witness_StepRunsThePresentedInstruction :
    (small [.clz32 (some 2) (.name 1)]).script = .clz32 (some 2) (.name 1) :: [] ∧
    presented (.clz32 (some 2) (.name 1)) (setScript [] (small [.clz32 (some 2) (.name 1)])) = some ⟨.x, 509⟩ ∧
    exec (decode ⟨.x, 509⟩) (setScript [] (small [.clz32 (some 2) (.name 1)])) =
      .next (answerClz32 509 (clz32 509) (small [])) :=
  ⟨rfl, rfl, rfl⟩

theorem witness_StepRunsThePresentedInstruction_smask :
    (small [.smask none (.lit 0)]).script = .smask none (.lit 0) :: [] ∧
    presented (.smask none (.lit 0)) (setScript [] (small [.smask none (.lit 0)])) = some ⟨.n, 0⟩ ∧
    exec (decode ⟨.n, 0⟩) (setScript [] (small [.smask none (.lit 0)])) = .next (answerSmask 0 (smask 0) (small [])) :=
  ⟨rfl, rfl, rfl⟩

theorem witness_StepRunsThePresentedInstruction_bitlen :
    (small [.bitlen (some 2) (.lit 0)]).script = .bitlen (some 2) (.lit 0) :: [] ∧
    presented (.bitlen (some 2) (.lit 0)) (setScript [] (small [.bitlen (some 2) (.lit 0)])) = some ⟨.x, 0⟩ ∧
    exec (decode ⟨.x, 0⟩) (setScript [] (small [.bitlen (some 2) (.lit 0)])) =
      .next (answerClz32 0 (clz32 0) (small [])) :=
  ⟨rfl, rfl, rfl⟩

theorem witness_FetchedTableWordRunsAsDecoded :
    decodeTableWord 32 0xFFFFFFFF = some (.clz32 0xFFFFFFFF) ∧ decodeTableWord 40 0x100000000 = some (.smask 0) := by
  decide

theorem witness_DecodeAndEncodeAgree :
    decodeBits 0x1FFFFFFFF = .ok (.smask 0xFFFFFFFF) ∧ 2 ^ 33 ≤ 0x200000000 := by decide

theorem witness_Clz32CountsLeadingZeros :
    (31 < 32 ∧ (0x80000000 : Word).getLsbD 31 = true ∧ ∀ i, 31 < i → i < 32 → (0x80000000 : Word).getLsbD i = false) ∧
    (0 < 32 ∧ (1 : Word).getLsbD 0 = true ∧ (List.range 31).all (fun i => !(1 : Word).getLsbD (i + 1)) = true) :=
  ⟨⟨by decide, by decide, fun i h1 h2 => by omega⟩, by decide⟩

theorem witness_Clz32ValueLaws :
    ((1 : Word) ≠ 0 ∧ 2 ^ (31 - 31) ≤ (1 : Word).toNat ∧ (1 : Word).toNat < 2 ^ (32 - 31)) ∧
    ((0xFFFFFFFF : Word) ≠ 0 ∧ 2 ^ (31 - 0) ≤ (0xFFFFFFFF : Word).toNat ∧ (0xFFFFFFFF : Word).toNat < 2 ^ (32 - 0)) := by
  decide

theorem witness_rounds_one_and_five : (1 ≤ 1 ∧ 1 ≤ 5) ∧ (1 ≤ 5 ∧ 5 ≤ 5) := by decide

theorem witness_flags_of_the_rounds :
    (clzT 1 1 = false ∧ clzT 1 0x10000 = true) ∧ (0x80000000 : Word).getLsbD 31 = true := by decide

theorem witness_tables :
    (⟨0, 0x80000000, 0xFFFFFFFF, 0b11111⟩ ∈ Claims.clzRows ∧ (0x80000000 : Word) ≤ 0x80000000 ∧
      (0x80000000 : Word) ≤ 0xFFFFFFFF) ∧
    (⟨31, 1, 1, 0b00000⟩ ∈ Claims.clzRows ∧ (1 : Word) ≤ 1) ∧
    (⟨1, 31, 1, 1⟩ ∈ Claims.smaskRows ∧ ⟨31, 1, 0x40000000, 0x7FFFFFFF⟩ ∈ Claims.smaskRows ∧
      (0x40000000 : Word) ≤ 0x7FFFFFFF) := by decide

theorem witness_highestSetBit : highestSetBit 1 = some 0 ∧ highestSetBit 0x80000000 = some 31 := by decide

theorem witness_in_domain :
    inDomain 1 = true ∧ inDomain 0x7FFFFFFF = true ∧ (1 : Word).toNat ≤ (0x7FFFFFFF : Word).toNat ∧
    (1 ≤ (1 : Word).toInt ∧ (0x7FFFFFFF : Word).toInt ≤ 2 ^ 31 - 1) := by decide

theorem witness_out_of_domain :
    inDomain 0 = false ∧ inDomain 0x80000000 = false ∧ (0x80000000 : Word).getLsbD 31 = true ∧
    (0xFFFFFFFF : Word).getLsbD 31 = true := by decide

theorem witness_SmaskPowerAndDecrement : (1 ≤ (1 : Count).toNat ∧ (1 : Count).toNat ≤ 31) ∧
    (1 ≤ (31 : Count).toNat ∧ (31 : Count).toNat ≤ 31) := by decide

theorem witness_SmaskMakesTheCoveringMask :
    (30 ≤ 30 ∧ (0x40000000 : Word) = BitVec.ofNat 32 (2 ^ 30)) ∧
    (1 ≤ 31 ∧ 31 ≤ 31 ∧ (0x7FFFFFFF : Word) = BitVec.ofNat 32 (2 ^ 31 - 1)) := by decide

theorem witness_EvaluationLinesBindTheirAnswers :
    operandValue (.name 1) (small []) = .ok 509 ∧ inDomain 509 = true ∧
    operandValue (.lit 0) (small []) = .ok 0 ∧ inDomain 0 = false ∧ (2 : Name) ≠ 1 :=
  ⟨rfl, by decide, rfl, by decide, by decide⟩

theorem witness_BitlenIsThirtyTwoMinusTheCount :
    operandValue (.name 1) (small []) = .ok 509 ∧ operandValue (.lit 0) (small []) = .ok 0 ∧
    operandValue (.lit 0xFFFFFFFF) (small []) = .ok 0xFFFFFFFF ∧ (2 : Name) ≠ 1 :=
  ⟨rfl, rfl, rfl, by decide⟩

theorem witness_SmaskIsIdempotent :
    (1 ≤ 1 ∧ 1 ≤ 31 ∧ (1 : Word).toNat = 2 ^ 1 - 1) ∧ (1 ≤ 31 ∧ 31 ≤ 31 ∧ (0x7FFFFFFF : Word).toNat = 2 ^ 31 - 1) ∧
    inDomain 1 = true ∧ inDomain 0x40000000 = true := by decide

theorem witness_StoreWritesOneAlignedWord :
    (small []).outBase % 4 = 0 ∧ ((4 : Nat) = 4 ∨ (4 : Nat) = 8 ∨ (4 : Nat) = 12) ∧
    ((12 : Nat) = 4 ∨ (12 : Nat) = 8 ∨ (12 : Nat) = 12) ∧ boundWord 1 (small []) = some 509 := by decide

theorem witness_MisalignedStoreIsRefused :
    boundWord 1 (small []) = some 509 ∧ ((small []).outBase + 5) % 4 ≠ 0 ∧
    (({ small [] with outBase := 2 } : State).outBase + 4) % 4 ≠ 0 := by decide

theorem witness_OtherEnvironmentStops :
    (boundWord 1 (small []) = some 509 ∧ ((small []).outBase + 16) % 4 = 0 ∧ ((small []).outBase + 0) % 4 = 0) ∧
    boundWord 2 (small []) = none := by decide

theorem witness_DriverLeavesItsThreeResults : State.reset.outBase % 4 = 0 := by decide

theorem witness_StepKeepsTheInvariant :
    Inv { State.reset with script := [.clz32 none (.lit 7)] } ∧
    step { State.reset with script := [.clz32 none (.lit 7)] } = .next (answerClz32 7 (clz32 7) State.reset) :=
  ⟨⟨⟨by decide, (if_neg (by decide)).symm⟩, by decide, by decide, by decide, rfl⟩, rfl⟩

theorem witness_WellFormedScriptNeverStops :
    ScriptSafe { State.reset with script := driverScript } ∧
    ({ State.reset with script := driverScript } : State).script ≠ [] := by
  constructor
  · unfold ScriptSafe; decide
  · decide

theorem witness_EvaluationTouchesNoMemory :
    State.reset.x = State.reset.x ∧ State.reset.count = State.reset.count ∧ State.reset.n = State.reset.n ∧
    State.reset.mask = State.reset.mask := ⟨rfl, rfl, rfl, rfl⟩

end Sys2Proof.Tests
end

section
/-! SUPPORT. The bit length of a word (R9), the one measure in which the contract of CLZ32, its datapath and SMASK's
width are all compared. -/

namespace Sys2Proof.Machine

/-- The zero word has no highest set bit (R40). -/
theorem toNat_eq_zero_of_highestSetBit_none {x : Word} (h : highestSetBit x = none) : x.toNat = 0 := by
  refine Nat.zero_of_testBit_eq_false fun i => ?_
  rw [BitVec.testBit_toNat]
  by_cases hi : i < 32
  · exact highestSetBelow_none h i hi
  · exact BitVec.getLsbD_of_ge x i (by omega)

/-- The highest set bit places the word between two consecutive powers of two (R40). -/
theorem toNat_bounds_of_highestSetBit_some {x : Word} {p : Nat} (h : highestSetBit x = some p) :
    2 ^ p ≤ x.toNat ∧ x.toNat < 2 ^ (p + 1) := by
  obtain ⟨-, hset, habove⟩ := highestSetBelow_some h
  refine ⟨Nat.ge_two_pow_of_testBit (by rw [BitVec.testBit_toNat, hset]), Nat.lt_pow_two_of_testBit _ fun i hi => ?_⟩
  rw [BitVec.testBit_toNat]
  by_cases h32 : i < 32
  · exact habove i (by omega) h32
  · exact BitVec.getLsbD_of_ge x i (by omega)

/-- The bit length is the least number of bits that the word fits in. -/
theorem bitLength_le_iff (x : Word) (k : Nat) : bitLength x ≤ k ↔ x.toNat < 2 ^ k := by
  unfold bitLength
  split
  next hnone => simp [toNat_eq_zero_of_highestSetBit_none hnone]
  next p hsome =>
    obtain ⟨hlow, hhigh⟩ := toNat_bounds_of_highestSetBit_some hsome
    constructor
    · exact fun hk => hhigh.trans_le (Nat.pow_le_pow_right Nat.two_pos hk)
    · exact fun hk => (Nat.pow_lt_pow_iff_right Nat.one_lt_two).mp (hlow.trans_lt hk)

theorem bitLength_le_32 (x : Word) : bitLength x ≤ 32 :=
  (bitLength_le_iff x 32).mpr x.isLt

/-- A right shift that leaves a nonzero word takes its distance off the bit length. -/
theorem bitLength_eq_add_of_toNat_eq_div {c : Nat} {v v' : Word} (hdiv : v'.toNat = v.toNat / 2 ^ c)
    (hne : v.toNat / 2 ^ c ≠ 0) : bitLength v = bitLength v' + c := by
  have hiff (k : Nat) : bitLength v' ≤ k ↔ bitLength v ≤ k + c := by
    rw [bitLength_le_iff, bitLength_le_iff, hdiv, Nat.div_lt_iff_lt_mul (Nat.two_pow_pos c), pow_add]
  have hlong : c < bitLength v := by
    rw [← not_le, bitLength_le_iff]
    exact fun hlt => hne (Nat.div_eq_of_lt hlt)
  have hle := (hiff (bitLength v')).mp le_rfl
  have hge := (hiff (bitLength v - c)).mpr (by omega)
  omega

/-- A word of at most one bit is its own bit length. -/
theorem bitLength_eq_toNat {v : Word} (h : bitLength v ≤ 1) : bitLength v = v.toNat := by
  have hlt := (bitLength_le_iff v 1).mp h
  have hzero := bitLength_le_iff v 0
  omega

/-- The contract of R40 as the complement of the bit length, the zero word included. -/
theorem clzContract_eq (x : Word) : clzContract x = BitVec.ofNat 6 (32 - bitLength x) := by
  unfold clzContract bitLength
  split
  next hnone => rfl
  next p hsome => rw [Nat.add_comm p 1, Nat.sub_add_eq]

/-- The domain of SMASK holds the words of bit length 1 to 31 (R63). -/
theorem inDomain_iff_bitLength (n : Word) : inDomain n = true ↔ 1 ≤ bitLength n ∧ bitLength n ≤ 31 := by
  have hzero := bitLength_le_iff n 0
  have hhigh := bitLength_le_iff n 31
  have hsign : n.getLsbD 31 = false ↔ n.toNat < 2 ^ 31 := by
    rw [← BitVec.msb_eq_getLsbD_last n, BitVec.msb_eq_false_iff_two_mul_lt]
    omega
  have hne : n = 0 ↔ n.toNat = 0 := by
    rw [← BitVec.toNat_inj]
    rfl
  simp only [inDomain, nonzero, Bool.and_eq_true, beq_iff_eq, bne_iff_ne, ne_eq, hsign, hne]
  omega

end Sys2Proof.Machine
end

section
/-! SUPPORT. CLZ32's datapath computes its contract (R40, R43 to R50): every round keeps the difference between the
running width and the bit length of the running value, and halves the window that holds the value. -/

namespace Sys2Proof.Machine

/-- What holds before a round with window `window` bits wide (R44, R51): the rounds have taken off the running width
what they have taken off the word's bit length, and the value fits the window. -/
def RunningCounts (x : Word) (window : Nat) (r : Running) : Prop :=
  r.width.toNat + bitLength x = 32 + bitLength r.value ∧ bitLength r.value ≤ window

theorem clzStart_counts (x : Word) : RunningCounts x 32 (clzStart x) :=
  ⟨rfl, bitLength_le_32 x⟩

/-- A round with stride `c` halves a window of `2 * c` bits. -/
theorem clzRound_counts {x : Word} {c : Nat} {r : Running} (hc : c < 64) (h : RunningCounts x (2 * c) r) :
    RunningCounts x c (clzRound c r) := by
  obtain ⟨hsum, hwindow⟩ := h
  rcases clzRound_spec c r with ⟨-, hne, hvalue, hwidth⟩ | ⟨-, hlt, hsame⟩
  · have hlen := bitLength_eq_add_of_toNat_eq_div hvalue hne
    have hx := bitLength_le_32 x
    have hsub : (clzRound c r).width.toNat = r.width.toNat - c := by
      have hcn : (BitVec.ofNat 6 c).toNat = c := Nat.mod_eq_of_lt hc
      rw [hwidth, BitVec.toNat_sub_of_le (by rw [BitVec.le_def, hcn]; omega), hcn]
    exact ⟨by omega, by omega⟩
  · rw [hsame]
    exact ⟨hsum, (bitLength_le_iff r.value c).mpr hlt⟩

/-- The five strides 16, 8, 4, 2, 1 leave a window of one bit (R45 to R49). -/
theorem clzAfter_rounds_counts (x : Word) : RunningCounts x 1 (clzAfter Config.rounds x) := by
  have h1 : RunningCounts x 16 (clzAfter 1 x) := clzRound_counts (by decide) (clzStart_counts x)
  have h2 : RunningCounts x 8 (clzAfter 2 x) := clzRound_counts (by decide) h1
  have h3 : RunningCounts x 4 (clzAfter 3 x) := clzRound_counts (by decide) h2
  have h4 : RunningCounts x 2 (clzAfter 4 x) := clzRound_counts (by decide) h3
  exact clzRound_counts (by decide) h4

/-- The final subtraction takes off the one bit that is left (R50). -/
theorem clzFinal_of_counts {x : Word} {r : Running} (h : RunningCounts x 1 r) :
    clzFinal r = BitVec.ofNat 6 (32 - bitLength x) := by
  obtain ⟨hsum, hbit⟩ := h
  have hvalue := bitLength_eq_toNat hbit
  have hx := bitLength_le_32 x
  have hlow : ((r.value.extractLsb' 0 1).setWidth 6).toNat = bitLength r.value := by
    rw [BitVec.toNat_setWidth, BitVec.extractLsb'_toNat, Nat.shiftRight_zero]
    omega
  apply BitVec.eq_of_toNat_eq
  rw [clzFinal, BitVec.toNat_sub_of_le (by rw [BitVec.le_def, hlow]; omega), hlow, BitVec.toNat_ofNat]
  omega

theorem clz32_eq (x : Word) : clz32 x = BitVec.ofNat 6 (32 - bitLength x) :=
  clzFinal_of_counts (clzAfter_rounds_counts x)

/-- CLZ32's datapath meets its contract for every word (R54). -/
theorem clz32_eq_clzContract (x : Word) : clz32 x = clzContract x := by
  rw [clz32_eq, clzContract_eq]

end Sys2Proof.Machine
end

section
/-! SUPPORT. SMASK's datapath makes the all-ones mask of the operand's bit length in the domain (R58 to R62, R65). -/

namespace Sys2Proof.Machine

/-- The width that SMASK computes is the operand's bit length, for every word (R60). -/
theorem smaskWidth_toNat (n : Word) : (smaskWidth n).toNat = bitLength n := by
  have hlen := bitLength_le_32 n
  have hcount : (smaskCount n).toNat = 32 - bitLength n := by
    rw [smaskCount, asUnsigned, clz32_eq, BitVec.toNat_ofNat]
    omega
  have htotal : Config.widthTotal.toNat = 32 := rfl
  rw [smaskWidth, BitVec.toNat_sub_of_le (by rw [BitVec.le_def, hcount, htotal]; omega), hcount, htotal]
  omega

/-- The power of a width below 32 is that power of two (R61). -/
theorem smaskPower_eq {w : Count} (h : w.toNat < 32) : smaskPower w = BitVec.ofNat 32 (2 ^ w.toNat) := by
  have hshift : (w.extractLsb' 0 5).toNat = w.toNat := by
    rw [BitVec.extractLsb'_toNat, Nat.shiftRight_zero]
    exact Nat.mod_eq_of_lt h
  apply BitVec.eq_of_toNat_eq
  rw [smaskPower, hshift, BitVec.toNat_shiftLeft, BitVec.toNat_ofNat, Nat.shiftLeft_eq]
  simp [Config.one]

/-- Taking one off a power of two makes the mask below it (R62). -/
theorem smaskDecrement_ofNat_two_pow (k : Nat) :
    smaskDecrement (BitVec.ofNat 32 (2 ^ k)) = BitVec.ofNat 32 (2 ^ k - 1) := by
  rw [smaskDecrement, show Config.one = BitVec.ofNat 32 1 from rfl,
    BitVec.ofNat_sub_ofNat_of_le _ _ (by decide) Nat.one_le_two_pow]

/-- In its domain SMASK's datapath makes the mask of the operand's bit length (R65). -/
theorem smaskDatapath_eq {n : Word} (h : inDomain n = true) :
    smaskDatapath n = BitVec.ofNat 32 (2 ^ bitLength n - 1) := by
  obtain ⟨-, hlen⟩ := (inDomain_iff_bitLength n).mp h
  have hwidth := smaskWidth_toNat n
  rw [smaskDatapath, smaskPower_eq (by omega), smaskDecrement_ofNat_two_pow, hwidth]

/-- What SMASK answers for every word: the mask of the bit length in the domain, the free value outside it (R63, R65). -/
theorem smask_eq (n : Word) :
    smask n = if inDomain n then BitVec.ofNat 32 (2 ^ bitLength n - 1) else Config.smOod n := by
  unfold smask smaskWith
  split
  next hin => exact smaskDatapath_eq hin
  next => rfl

end Sys2Proof.Machine
end

section
/-! SUPPORT. What keeps the invariant: each operation of the environment and of the block, then a whole step. -/

namespace Sys2Proof.Machine

/-- The invariant does not speak of the script. -/
theorem setScript_keeps_inv (rest : Script) {s : State} (h : Inv s) : Inv (setScript rest s) := h

/-- An answer of CLZ32 puts its function of the word beside the word (R14, R20). -/
theorem answerClz32_keeps_inv (x : Word) {s : State} (h : Inv s) : Inv (answerClz32 x (clz32 x) s) := by
  obtain ⟨⟨-, hmask⟩, hhost⟩ := h
  exact ⟨⟨clz32_eq_clzContract x, hmask⟩, hhost⟩

/-- An answer of SMASK puts its function of the word beside the word (R15, R20). -/
theorem answerSmask_keeps_inv (n : Word) {s : State} (h : Inv s) : Inv (answerSmask n (smask n) s) := by
  obtain ⟨⟨hcount, -⟩, hhost⟩ := h
  exact ⟨⟨hcount, smask_eq n⟩, hhost⟩

theorem exec_keeps_inv {i : Instr} {s t : State} (h : Inv s) (ht : exec i s = .next t) : Inv t := by
  rw [exec_next] at ht
  cases i with
  | clz32 x =>
    cases ht
    exact answerClz32_keeps_inv x h
  | smask n =>
    cases ht
    exact answerSmask_keeps_inv n h

/-- Binding a name keeps the list of names canonical (R37). -/
theorem bindName_keeps_inv (dest : Option Name) (w : Word) {s : State} (h : Inv s) : Inv (bindName dest w s) := by
  cases dest with
  | none => exact h
  | some r =>
    obtain ⟨hports, hmem, hnames, hallowed, hreplay⟩ := h
    exact ⟨hports, hmem, assocRising_assocInsert r w s.names hnames, hallowed, hreplay⟩

theorem takeAnswer_keeps_inv (l : Line) {s : State} (h : Inv s) : Inv (takeAnswer l s) := by
  cases l with
  | clz32 dest => exact bindName_keeps_inv dest _ h
  | smask dest => exact bindName_keeps_inv dest _ h
  | bitlen dest => exact bindName_keeps_inv dest _ h
  | store => exact h

/-- Replaying one more event writes its word last (R28). -/
theorem replayStores_concat (events : List StoreEvent) (e : StoreEvent) :
    replayStores (events ++ [e]) = Memory.writeWord Config.hostByteOrder e.addr e.word (replayStores events) := by
  simp [replayStores]

/-- A store that completes was aligned and in the map, and its event accounts for the bytes it wrote (R25, R26). -/
theorem memWrite_keeps_inv {addr : Nat} {v : Word} {s t : State} (h : Inv s) (ht : memWrite addr v s = .next t) :
    Inv t := by
  obtain ⟨hports, hmem, hnames, hallowed, hreplay⟩ := h
  have hwf := memWrite_wf ht hmem
  obtain ⟨haligned, hdefined, rfl⟩ := memWrite_next ht
  refine ⟨hports, hwf, hnames, ?_, ?_⟩
  · simpa [storesAllowed, haligned, hdefined] using hallowed
  · rw [replayStores_concat, ← hreplay]

/-- Everything a line can do when it answers a next state: it presents its operand to its port, or it stores a name. -/
theorem runLine_next {l : Line} {s t : State} (h : runLine l s = .next t) :
    (∃ p op, lineOperand l = some (p, op) ∧ evaluate l p op s = .next t) ∨
    (∃ offset src, l = .store offset src ∧ storeNamed offset src s = .next t) := by
  cases l with
  | clz32 dest op => exact .inl ⟨.x, op, rfl, h⟩
  | smask dest op => exact .inl ⟨.n, op, rfl, h⟩
  | bitlen dest op => exact .inl ⟨.x, op, rfl, h⟩
  | store offset src => exact .inr ⟨offset, src, rfl, h⟩

theorem evaluate_keeps_inv {l : Line} {p : InPort} {op : Operand} {s t : State} (h : Inv s)
    (ht : evaluate l p op s = .next t) : Inv t := by
  obtain ⟨w, u, -, hu, rfl⟩ := evaluate_next ht
  exact takeAnswer_keeps_inv l (exec_keeps_inv h hu)

theorem runLine_keeps_inv {l : Line} {s t : State} (h : Inv s) (ht : runLine l s = .next t) : Inv t := by
  obtain ⟨p, op, -, hevaluate⟩ | ⟨offset, src, rfl, hstore⟩ := runLine_next ht
  · exact evaluate_keeps_inv h hevaluate
  · obtain ⟨v, -, hwrite⟩ := storeNamed_next hstore
    exact memWrite_keeps_inv h hwrite

end Sys2Proof.Machine
end

section
/-! PROOFS. The statements about the state: what an answer depends on, what reset leaves, and the invariant. -/

namespace Sys2Proof.Machine

/-- Settles O43: a step takes the first line off the script and performs it, and both keep the invariant. -/
theorem stepKeepsTheInvariant : Obligations.StepKeepsTheInvariant := by
  intro s t h ht
  obtain ⟨l, rest, -, hrun⟩ := step_next ht
  exact runLine_keeps_inv (setScript_keeps_inv rest h) hrun

/-- Settles O31: an evaluation answers with its function of the word, from every state it starts in. -/
theorem answersDependOnTheWordAlone : Obligations.AnswersDependOnTheWordAlone := by
  constructor
  · exact fun x j s s' => ⟨_, _, _, exec_next _ s, exec_next j s', exec_next _ _, rfl⟩
  · exact fun n j s s' => ⟨_, _, _, exec_next _ s, exec_next j s', exec_next _ _, rfl⟩

/-- Settles O32: either order puts both words and both answers on the ports, since each evaluation writes its own two
ports only. -/
theorem componentsDoNotInterfere : Obligations.ComponentsDoNotInterfere := by
  intro x n s
  exact ⟨_, _, _, exec_next (.clz32 x) s, exec_next (.smask n) s, exec_next (.smask n) _, exec_next (.clz32 x) _,
    rfl, rfl, rfl, rfl, rfl, rfl⟩

/-- SMASK's answer to the word 0, which is outside its domain (R63). -/
theorem smask_zero : smask 0 = Config.smOod 0 := by
  rw [smask, smaskWith, if_neg (by decide)]

/-- The contract's corner case, the zero word (R40). -/
theorem clzContract_zero : clzContract 0 = 32 := by
  decide

/-- Settles O41: each field as `State.reset` writes it, the mask being SMASK's answer to 0. -/
theorem resetLeavesTheChosenValues : Obligations.ResetLeavesTheChosenValues :=
  ⟨rfl, rfl, rfl, smask_zero.symm, rfl, rfl, rfl, rfl, rfl⟩

/-- The ports at reset answer their inputs: 32 for the zero word (R40), the free value for a word outside the domain
(R63). -/
theorem reset_portsAnswer : PortsAnswer State.reset := by
  constructor
  · exact clzContract_zero.symm
  · exact smask_zero.symm.trans (smask_eq 0)

/-- The host at reset holds no byte, no name and no event, each canonical. -/
theorem reset_hostConsistent : HostConsistent State.reset :=
  ⟨reset_mem_wf, rfl, rfl, rfl⟩

/-- Settles O42: the ports answer their inputs, and the host holds nothing. -/
theorem resetHasTheInvariant : Obligations.ResetHasTheInvariant :=
  ⟨reset_portsAnswer, reset_hostConsistent⟩

end Sys2Proof.Machine
end

section
/-! PROOFS. Words in host memory: reading a word, and each of its bytes, after a word has been written (R24, R86). -/

namespace Sys2Proof.Machine

/-- The byte `i` above a written word's address is that byte of the word. -/
theorem readByte_writeWord_inside (o : ByteOrder) (a : Nat) (v : Word) (m : Memory) {i : Nat} (hi : i < 4) :
    (Memory.writeWord o a v m).readByte (a + i) = some (byteOfWord o v i) := by
  rw [readByte_writeWord, if_pos (by omega), Nat.add_sub_cancel_left]

/-- A word write leaves every byte outside the word. -/
theorem readByte_writeWord_outside (o : ByteOrder) {a b : Nat} (v : Word) (m : Memory) (hb : b < a ∨ a + 4 ≤ b) :
    (Memory.writeWord o a v m).readByte b = m.readByte b := by
  rw [readByte_writeWord, if_neg (by omega)]

/-- A written word reads back in the order it was written in. -/
theorem readWord_writeWord (o : ByteOrder) (a : Nat) (v : Word) (m : Memory) :
    (Memory.writeWord o a v m).readWord o a = some v := by
  have h0 : (Memory.writeWord o a v m).readByte a = _ := readByte_writeWord_inside o a v m (i := 0) (by omega)
  have h1 := readByte_writeWord_inside o a v m (i := 1) (by omega)
  have h2 := readByte_writeWord_inside o a v m (i := 2) (by omega)
  have h3 := readByte_writeWord_inside o a v m (i := 3) (by omega)
  simp only [Memory.readWord, h0, h1, h2, h3, wordOfBytes_byteOfWord]

/-- A word write leaves every word that shares no byte with the one written. -/
theorem readWord_writeWord_disjoint (o o' : ByteOrder) {a b : Nat} (v : Word) (m : Memory)
    (hb : b + 4 ≤ a ∨ a + 4 ≤ b) : (Memory.writeWord o a v m).readWord o' b = m.readWord o' b := by
  have hbyte (i : Nat) (hi : i < 4) : (Memory.writeWord o a v m).readByte (b + i) = m.readByte (b + i) :=
    readByte_writeWord_outside o v m (by omega)
  have h0 : (Memory.writeWord o a v m).readByte b = _ := hbyte 0 (by omega)
  simp only [Memory.readWord, h0, hbyte 1, hbyte 2, hbyte 3, Nat.reduceLT, Nat.add_zero]

/-- Settles O39: the bytes of a written word are the word's in its order, and `wordOfBytes` puts them together again. -/
theorem wordsReadBackInEitherByteOrder : Obligations.WordsReadBackInEitherByteOrder := by
  intro o a v m
  refine ⟨readWord_writeWord o a v m, ?_, ?_, fun b hb => readByte_writeWord_outside o v m hb⟩
  · exact fun i hi => readByte_writeWord_inside .little a v m hi
  · intro i hi
    rw [readByte_writeWord_inside .big a v m hi, byteOfWord, Nat.mul_sub]

end Sys2Proof.Machine
end

section
/-! PROOFS. What a STORE line does from a state in which its name is bound (R23, R25, R26). -/

namespace Sys2Proof.Machine

/-- The state after a word store that completes at the address of a STORE line: its bytes and its event (R26). -/
def storeWord (offset : Nat) (v : Word) (s : State) : State :=
  { s with
    mem := Memory.writeWord Config.hostByteOrder (storeAddress s offset) v s.mem
    stores := s.stores ++ [⟨storeAddress s offset, v⟩] }

/-- A STORE line of a bound name is a word write of the name's word at the line's address. -/
theorem step_store_of_bound (offset : Nat) {src : Name} {v : Word} (rest : Script) {s : State}
    (hv : boundWord src s = some v) :
    step (setScript (.store offset src :: rest) s) = memWrite (storeAddress s offset) v (setScript rest s) := by
  change storeNamed offset src (setScript rest s) = _
  have hbound : boundWord src (setScript rest s) = some v := hv
  simp only [storeNamed, hbound, storeAddress, setScript_outBase]

/-- A STORE line completes at each of the map's three offsets from an aligned base (R25, R27). -/
theorem step_store_next {offset : Nat} {src : Name} {v : Word} (rest : Script) {s : State}
    (haligned : s.outBase % 4 = 0) (hoffset : offset = 4 ∨ offset = 8 ∨ offset = 12)
    (hv : boundWord src s = some v) :
    step (setScript (.store offset src :: rest) s) = .next (setScript rest (storeWord offset v s)) := by
  have haddr : storeAddress s offset % 4 = 0 := by
    unfold storeAddress
    omega
  have hdefined : hostDefines s.outBase (storeAddress s offset) = true := by
    simpa [hostDefines, storeAddress, or_assoc] using hoffset
  rw [step_store_of_bound offset rest hv]
  exact memWrite_of_defined haddr hdefined

/-- Settles O36: the step is the word write at the line's address, which reads back and leaves every other byte. -/
theorem storeWritesOneAlignedWord : Obligations.StoreWritesOneAlignedWord := by
  intro s offset src v rest haligned hoffset hv
  refine ⟨_, step_store_next rest haligned hoffset hv, rfl, ?_, ?_, rfl⟩
  · exact readWord_writeWord Config.hostByteOrder (s.outBase + offset) v s.mem
  · exact fun a ha => readByte_writeWord_outside Config.hostByteOrder v s.mem ha

/-- Settles O37: the alignment test of the word write comes before the memory map's. -/
theorem misalignedStoreIsRefused : Obligations.MisalignedStoreIsRefused := by
  intro s offset src v rest hv hmisaligned
  have hstep := step_store_of_bound offset rest hv
  rwa [memWrite, if_pos (show storeAddress s offset % 4 ≠ 0 from hmisaligned)] at hstep

end Sys2Proof.Machine
end

section
/-! PROOFS. The driver: three evaluations of SMASK, each followed by the store of its answer (R22, R23, R85). -/

namespace Sys2Proof.Machine

/-- The state after SMASK has answered `n` and the environment has bound its answer to `r` (R37). -/
def bindSmask (r : Name) (n : Word) (s : State) : State :=
  bindName (some r) (smask n) (answerSmask n (smask n) s)

/-- A line that presents a literal to SMASK answers it and binds its name. -/
theorem step_smask_lit (r : Name) (n : Word) (rest : Script) (s : State) :
    step (setScript (.smask (some r) (.lit n) :: rest) s) = .next (setScript rest (bindSmask r n s)) := rfl

/-- A name reads as the mask it has just been bound to. -/
theorem boundWord_bindSmask (r : Name) (n : Word) (s : State) : boundWord r (bindSmask r n s) = some (smask n) := by
  rw [bindSmask, boundWord, bindName_names_some, assocFind_assocInsert, if_pos rfl]

/-- A run goes on from the state that its first step answers. -/
theorem coreRun_succ_of_step (M : Host.Core) {s t : M.State} (k : Nat) (h : M.step s = .next t) :
    M.run (k + 1) s = M.run k t := by
  simp only [Host.Core.run, h]

/-- The same for this machine, in the terms of its own `step`. -/
theorem run_succ_of_step {s t : State} (k : Nat) (h : step s = .next t) :
    Host.Core.run Sys2Proof.core (k + 1) s = Host.Core.run Sys2Proof.core k t :=
  coreRun_succ_of_step Sys2Proof.core k h

/-- The state after one stage of the driver: SMASK has answered `n`, and its answer is bound to `r` and stored. -/
def storeSmask (r : Name) (n : Word) (offset : Nat) (s : State) : State :=
  storeWord offset (smask n) (bindSmask r n s)

/-- A stage of the driver is two steps, and both complete (R23). -/
theorem run_smask_store (k : Nat) (r : Name) (n : Word) {offset : Nat} (rest : Script) {s : State}
    (haligned : s.outBase % 4 = 0) (hoffset : offset = 4 ∨ offset = 8 ∨ offset = 12) :
    Host.Core.run Sys2Proof.core (k + 2)
        (setScript (.smask (some r) (.lit n) :: .store offset r :: rest) s) =
      Host.Core.run Sys2Proof.core k (setScript rest (storeSmask r n offset s)) := by
  have hstore := step_store_next rest (s := bindSmask r n s) haligned hoffset (boundWord_bindSmask r n s)
  calc
    _ = Host.Core.run Sys2Proof.core (k + 1) (setScript (.store offset r :: rest) (bindSmask r n s)) :=
      run_succ_of_step (k + 1) (step_smask_lit r n _ s)
    _ = _ := run_succ_of_step k hstore

section
variable (r : Name) (n : Word) (offset : Nat) (s : State)

@[simp] theorem storeSmask_x : (storeSmask r n offset s).x = s.x := rfl
@[simp] theorem storeSmask_count : (storeSmask r n offset s).count = s.count := rfl
@[simp] theorem storeSmask_outBase : (storeSmask r n offset s).outBase = s.outBase := rfl
@[simp] theorem storeSmask_mem : (storeSmask r n offset s).mem =
    Memory.writeWord Config.hostByteOrder (s.outBase + offset) (smask n) s.mem := rfl
@[simp] theorem storeSmask_stores :
    (storeSmask r n offset s).stores = s.stores ++ [⟨s.outBase + offset, smask n⟩] := rfl

end

/-- The state after the driver, but for its script: its three stages in order (R22, R23). -/
def driverResult (s : State) : State :=
  storeSmask 3 1000 12 (storeSmask 2 509 8 (storeSmask 1 1 4 s))

/-- The driver's six steps are its three stages. -/
theorem run_driverScript {s : State} (haligned : s.outBase % 4 = 0) :
    Host.Core.run Sys2Proof.core 6 (setScript driverScript s) = .next (setScript [] (driverResult s)) := by
  have hfirst := run_smask_store 4 1 1 (driverScript.drop 2) haligned (.inl rfl)
  have hsecond := run_smask_store 2 2 509 (driverScript.drop 4) (s := storeSmask 1 1 4 s) haligned (.inr (.inl rfl))
  have hthird := run_smask_store 0 3 1000 [] (s := storeSmask 2 509 8 (storeSmask 1 1 4 s)) haligned (.inr (.inr rfl))
  exact hfirst.trans (hsecond.trans hthird)

/-- The source's end-to-end expectation of the three answers (R23, R57). -/
theorem smask_driver_inputs : smask 1 = 1 ∧ smask 509 = 511 ∧ smask 1000 = 1023 := by decide

/-- The driver leaves memory with its three words written in order. -/
theorem driverResult_mem (s : State) : (driverResult s).mem =
    Memory.writeWord Config.hostByteOrder (s.outBase + 12) 1023
      (Memory.writeWord Config.hostByteOrder (s.outBase + 8) 511
        (Memory.writeWord Config.hostByteOrder (s.outBase + 4) 1 s.mem)) := by
  obtain ⟨h1, h509, h1000⟩ := smask_driver_inputs
  simp only [driverResult, storeSmask_mem, storeSmask_outBase, h1, h509, h1000]

/-- The driver makes its three store events in order. -/
theorem driverResult_stores (s : State) : (driverResult s).stores =
    s.stores ++ [⟨s.outBase + 4, 1⟩, ⟨s.outBase + 8, 511⟩, ⟨s.outBase + 12, 1023⟩] := by
  obtain ⟨h1, h509, h1000⟩ := smask_driver_inputs
  simp only [driverResult, storeSmask_stores, storeSmask_outBase, h1, h509, h1000, List.append_assoc, List.cons_append,
    List.nil_append]

/-- The driver leaves CLZ32's ports and the base address. -/
theorem driverResult_frame (s : State) : (driverResult s).x = s.x ∧ (driverResult s).count = s.count ∧
    (driverResult s).outBase = s.outBase := by
  simp only [driverResult, storeSmask_x, storeSmask_count, storeSmask_outBase, and_self]

/-- Settles O40: each stage writes its word, and the later stages write other words. -/
theorem driverLeavesItsThreeResults : Obligations.DriverLeavesItsThreeResults := by
  intro s haligned
  refine ⟨setScript [] (driverResult s), run_driverScript haligned, ?_, ?_, ?_, driverResult_stores s,
    fun a ha => ?_, rfl, driverResult_frame s⟩
  all_goals rw [setScript_mem, driverResult_mem]
  · rw [readWord_writeWord_disjoint _ _ _ _ (by omega), readWord_writeWord_disjoint _ _ _ _ (by omega),
      readWord_writeWord]
  · rw [readWord_writeWord_disjoint _ _ _ _ (by omega), readWord_writeWord]
  · rw [readWord_writeWord]
  · rw [readByte_writeWord_outside _ _ _ (by omega), readByte_writeWord_outside _ _ _ (by omega),
      readByte_writeWord_outside _ _ _ (by omega)]

end Sys2Proof.Machine
end

section
/-! PROOFS. What an evaluation of the block leaves unchanged outside its ports (R21). -/

namespace Sys2Proof.Machine

/-- Settles O33: an evaluation writes its component's two ports only, each with a function of the word alone. -/
theorem evaluationTouchesNoMemory : Obligations.EvaluationTouchesNoMemory := by
  intro i s s'
  refine ⟨_, _, exec_next i s, exec_next i s', ?_⟩
  cases i with
  | clz32 x => exact ⟨fun _ => rfl, rfl, rfl, rfl, rfl, rfl, fun _ _ hn hmask => ⟨rfl, rfl, hn, hmask⟩⟩
  | smask n => exact ⟨fun _ => rfl, rfl, rfl, rfl, rfl, rfl, fun hx hcount _ _ => ⟨hx, hcount, rfl, rfl⟩⟩

end Sys2Proof.Machine
end

section
/-! PROOFS. The model's numbers for presentations (log entry 6): a number stands for a presentation exactly when it is
the port's number above the word. -/

namespace Sys2Proof

theorem decode_encode (i : Instr) : decode (encode i) = i := by
  cases i <;> rfl

theorem encode_decode (p : Presentation) : encode (decode p) = p := by
  obtain ⟨port, word⟩ := p
  cases port <;> rfl

theorem portNumber_le_one (p : InPort) : portNumber p ≤ 1 := by
  cases p <;> decide

theorem portOfNumber_portNumber (p : InPort) : portOfNumber (portNumber p) = .ok p := by
  cases p <;> rfl

/-- Only the two numbers of the ports name a port. -/
theorem portOfNumber_of_two_le {k : Nat} (hk : 2 ≤ k) : portOfNumber k = .error (.noSuchPort k) := by
  obtain ⟨j, rfl⟩ := Nat.exists_eq_add_of_le' hk
  rfl

theorem portOfNumber_eq_ok_iff (k : Nat) (p : InPort) : portOfNumber k = .ok p ↔ portNumber p = k := by
  constructor
  · intro h
    match k, h with
    | 0, h => cases h; rfl
    | 1, h => cases h; rfl
    | k + 2, h => rw [portOfNumber_of_two_le (by omega)] at h; cases h
  · rintro rfl
    exact portOfNumber_portNumber p

/-- A number stands for a presentation exactly when its quotient by `2^32` is the port's number and its remainder is the
word. -/
theorem presentationOfBits_eq_ok_iff (bits : Nat) (p : Presentation) :
    presentationOfBits bits = .ok p ↔ portNumber p.port * 2 ^ 32 + p.word.toNat = bits := by
  have hword := p.word.isLt
  have hdivmod : portNumber p.port * 2 ^ 32 + p.word.toNat = bits ↔
      portNumber p.port = bits / 2 ^ 32 ∧ bits % 2 ^ 32 = p.word.toNat := by omega
  rw [hdivmod, ← portOfNumber_eq_ok_iff, ← BitVec.toNat_ofNat, BitVec.toNat_inj, presentationOfBits]
  obtain ⟨port, word⟩ := p
  cases portOfNumber (bits / 2 ^ 32) <;> simp

/-- A number decodes to what the presentation it stands for decodes to. -/
theorem decodeBits_eq_ok_iff_presentation (bits : Nat) (i : Instr) :
    decodeBits bits = .ok i ↔ ∃ p, presentationOfBits bits = .ok p ∧ decode p = i := by
  unfold decodeBits
  cases presentationOfBits bits <;> simp

/-- A number decodes to an instruction exactly when it is that instruction's number. -/
theorem decodeBits_eq_ok_iff (bits : Nat) (i : Instr) : decodeBits bits = .ok i ↔ encodeBits i = bits := by
  rw [decodeBits_eq_ok_iff_presentation]
  constructor
  · rintro ⟨p, hp, rfl⟩
    rw [encodeBits, encode_decode]
    exact (presentationOfBits_eq_ok_iff bits p).mp hp
  · exact fun h => ⟨encode i, (presentationOfBits_eq_ok_iff bits _).mpr h, decode_encode i⟩

/-- A number that names no port is rejected with the number it names. -/
theorem decodeBits_of_two_pow_33_le {bits : Nat} (h : 2 ^ 33 ≤ bits) :
    decodeBits bits = .error (.noSuchPort (bits / 2 ^ 32)) := by
  rw [decodeBits, presentationOfBits, portOfNumber_of_two_le (by omega)]

/-- A table word decodes to what its low `nbits` bits decode to as a number. -/
theorem decodeTableWord_eq_some_iff (nbits w : Nat) (i : Instr) :
    decodeTableWord nbits w = some i ↔ decodeBits (w % 2 ^ nbits) = .ok i := by
  unfold decodeTableWord
  cases decodeBits (w % 2 ^ nbits) <;> simp

/-- The two ports need one bit above the word. -/
theorem encodeBits_lt (i : Instr) : encodeBits i < 2 ^ 33 := by
  have hword := (encode i).word.isLt
  have hport := portNumber_le_one (encode i).port
  unfold encodeBits
  omega

/-- Settles O2: a number decodes to an instruction exactly when it is the instruction's number, and every such number
fits in 33 bits. -/
theorem decodeAndEncodeAgree : Obligations.DecodeAndEncodeAgree := by
  have hround (i : Instr) : decodeBits (encodeBits i) = .ok i := (decodeBits_eq_ok_iff _ i).mpr rfl
  refine ⟨fun i => ⟨decode_encode i, hround i, ?_⟩, encode_decode, fun bits i => (decodeBits_eq_ok_iff bits i).mp,
    fun _ => decodeBits_of_two_pow_33_le⟩
  have hlt := encodeBits_lt i
  rw [decodeTableWord_eq_some_iff, Nat.mod_eq_of_lt (by omega)]
  exact hround i

/-- Settles O1: each table word is the number of its operation, but for the one with port number 2, which names no
port. -/
theorem specWordsDecodeToTheirOperations : Obligations.SpecWordsDecodeToTheirOperations := by
  refine ⟨rfl, rfl, ?_, ?_, by decide, ⟨rfl, rfl, rfl⟩, ⟨rfl, rfl, rfl⟩, rfl, rfl, rfl⟩
  all_goals
    rw [decodeTableWord_eq_some_iff, decodeBits_eq_ok_iff]
    rfl

end Sys2Proof
end

section
/-! PROOFS. A step performs the evaluation that the next line presents, and takes its answer (R34, R37, R83). -/

namespace Sys2Proof.Machine

/-- A line presents a word when it drives the word's port with an operand of that value. -/
theorem presented_eq_some_iff (l : Line) (s : State) (p : Presentation) :
    presented l s = some p ↔ ∃ op, lineOperand l = some (p.port, op) ∧ operandValue op s = .ok p.word := by
  obtain ⟨port, word⟩ := p
  unfold presented
  cases lineOperand l with
  | none => simp
  | some driven =>
    obtain ⟨port', op⟩ := driven
    cases hop : operandValue op s <;> simp [hop]

/-- A line that drives a port evaluates its operand there. -/
theorem runLine_of_lineOperand {l : Line} {p : InPort} {op : Operand} (h : lineOperand l = some (p, op)) (s : State) :
    runLine l s = evaluate l p op s := by
  cases l <;> cases h <;> rfl

/-- An evaluation of an operand that has a value is `exec` of the decoded word and the taking of its answer. -/
theorem evaluate_of_operandValue (l : Line) {p : InPort} {op : Operand} {w : Word} {s t : State}
    (hw : operandValue op s = .ok w) (ht : exec (decode ⟨p, w⟩) s = .next t) :
    evaluate l p op s = .next (takeAnswer l t) := by
  simp only [evaluate, hw, ht]

/-- With a line left, a step performs it. -/
theorem step_of_script {s : State} {l : Line} {rest : Script} (h : s.script = l :: rest) :
    step s = runLine l (setScript rest s) := by
  simp only [step, environmentStep, h]

/-- Settles O3: the presenting line drives the word's port with an operand of that value. -/
theorem stepRunsThePresentedInstruction : Obligations.StepRunsThePresentedInstruction := by
  intro s t l rest p hscript hpresented hexec
  obtain ⟨op, hline, hvalue⟩ := (presented_eq_some_iff l _ p).mp hpresented
  rw [step_of_script hscript, runLine_of_lineOperand hline]
  exact evaluate_of_operandValue l hvalue hexec

/-- The line that presents a word without a name is the evaluation of the word and nothing else. -/
theorem step_lineOfPresentation (p : Presentation) (s : State) :
    step (setScript (lineOfPresentation p :: s.script) s) = exec (decode p) s := by
  obtain ⟨port, word⟩ := p
  cases port <;> rfl

/-- Settles O4: the word stands for a presentation, whose line is placed and then taken off again. -/
theorem fetchedTableWordRunsAsDecoded : Obligations.FetchedTableWordRunsAsDecoded := by
  intro s nbits w i hdecode
  rw [decodeTableWord_eq_some_iff, decodeBits_eq_ok_iff_presentation] at hdecode
  obtain ⟨p, hp, rfl⟩ := hdecode
  have hline : lineOfTableWord nbits w = some (lineOfPresentation p) := by
    simp only [lineOfTableWord, hp]
  rw [State.withFetchWord, hline]
  exact step_lineOfPresentation p s

end Sys2Proof.Machine
end

section
/-! PROOFS. The evaluation lines, each with the answer it binds (R37, R38). -/

namespace Sys2Proof.Machine

/-- A line whose operand has a value evaluates it with the line taken off, and takes the answer. -/
theorem step_of_lineOperand {l : Line} {p : InPort} {op : Operand} {w : Word} (rest : Script) {s t : State}
    (hline : lineOperand l = some (p, op)) (hw : operandValue op s = .ok w)
    (ht : exec (decode ⟨p, w⟩) (setScript rest s) = .next t) :
    step (setScript (l :: rest) s) = .next (takeAnswer l t) := by
  have hvalue : operandValue op (setScript rest s) = .ok w := hw
  rw [step_of_script (setScript_script _ s), setScript_setScript, runLine_of_lineOperand hline]
  exact evaluate_of_operandValue l hvalue ht

/-- A name reads as the word it has just been bound to. -/
theorem boundWord_bindName_self (r : Name) (w : Word) (s : State) : boundWord r (bindName (some r) w s) = some w := by
  rw [boundWord, bindName_names_some, assocFind_assocInsert, if_pos rfl]

/-- Binding a name leaves every other name. -/
theorem boundWord_bindName_of_ne {r r' : Name} (h : r' ≠ r) (w : Word) (s : State) :
    boundWord r' (bindName (some r) w s) = boundWord r' s := by
  rw [boundWord, bindName_names_some, assocFind_assocInsert, if_neg h, boundWord]

/-- A named SMASK line binds SMASK's answer, in the domain and outside it, and changes nothing else. -/
theorem step_smask_binds {s : State} (r : Name) {op : Operand} {n : Word} (rest : Script)
    (hn : operandValue op s = .ok n) :
    ∃ t, step { s with script := .smask (some r) op :: rest } = .next t ∧
      boundWord r t = some (smask n) ∧
      (∀ r', r' ≠ r → boundWord r' t = boundWord r' s) ∧
      t = { s with n := n, mask := smask n, script := rest, names := t.names } :=
  ⟨_, step_of_lineOperand rest rfl hn (exec_next (.smask n) _), boundWord_bindName_self r _ _,
    fun _ hr => boundWord_bindName_of_ne hr _ _, rfl⟩

/-- Settles O34: a line binds its operation's answer, which is the contract's. -/
theorem evaluationLinesBindTheirAnswers : Obligations.EvaluationLinesBindTheirAnswers := by
  refine ⟨fun s r op x rest hx => ?_, fun s r op n rest hn hin => ?_, fun s r op n rest hn hout => ?_⟩
  · rw [← clz32_eq_clzContract]
    exact ⟨_, step_of_lineOperand rest rfl hx (exec_next (.clz32 x) _), boundWord_bindName_self r _ _,
      fun _ hr => boundWord_bindName_of_ne hr _ _, rfl⟩
  · have hmask : smask n = BitVec.ofNat 32 (2 ^ bitLength n - 1) := by rw [smask_eq, if_pos hin]
    exact hmask ▸ step_smask_binds r rest hn
  · have hmask : smask n = Config.smOod n := by rw [smask_eq, if_neg (by simp [hout])]
    exact hmask ▸ step_smask_binds r rest hn

/-- The count is what the bit length leaves of 32, and so never exceeds it (R39, R40). -/
theorem clz32_toNat (x : Word) : (clz32 x).toNat = 32 - bitLength x := by
  rw [clz32_eq, BitVec.toNat_ofNat]
  omega

/-- BITLEN's subtraction is the one that makes SMASK's width (R38, R60). -/
theorem bitlenOfCount_clz32 (x : Word) : bitlenOfCount (clz32 x) = smaskWidth x := rfl

/-- BITLEN makes the bit length (R38). -/
theorem bitlenOfCount_clz32_toNat (x : Word) : (bitlenOfCount (clz32 x)).toNat = bitLength x := by
  rw [bitlenOfCount_clz32, smaskWidth_toNat]

/-- The zero word, and no other, has no bits. -/
theorem bitLength_eq_zero_iff (x : Word) : bitLength x = 0 ↔ x = 0 := by
  rw [← Nat.le_zero, bitLength_le_iff, ← BitVec.toNat_inj]
  exact Nat.lt_one_iff

/-- The bit length as a word is 32 less the count, which does not wrap (R38). -/
theorem widenCount_bitlenOfCount (x : Word) :
    widenCount (bitlenOfCount (clz32 x)) = BitVec.ofNat 32 (32 - (clz32 x).toNat) := by
  have hlen := bitLength_le_32 x
  apply BitVec.eq_of_toNat_eq
  rw [widenCount, BitVec.toNat_setWidth, bitlenOfCount_clz32_toNat, BitVec.toNat_ofNat, clz32_toNat]
  omega

/-- A BITLEN line answers CLZ32's evaluation of its operand, and binds its name, if it has one, to the bit length. -/
theorem step_bitlen {s : State} (dest : Option Name) {op : Operand} {x : Word} (rest : Script)
    (hx : operandValue op s = .ok x) :
    step (setScript (.bitlen dest op :: rest) s) =
      .next (bindName dest (widenCount (bitlenOfCount (clz32 x))) (answerClz32 x (clz32 x) (setScript rest s))) :=
  step_of_lineOperand rest rfl hx (exec_next (.clz32 x) _)

/-- Settles O35: the bound word is the bit length, which is 32 less the count. -/
theorem bitlenIsThirtyTwoMinusTheCount : Obligations.BitlenIsThirtyTwoMinusTheCount := by
  refine ⟨fun s r op x rest hx => ?_, fun s op x rest hx => ⟨_, exec_next (.clz32 x) _, step_bitlen none rest hx⟩,
    fun x => ⟨bitlenOfCount_clz32_toNat x, bitlenOfCount_clz32 x⟩⟩
  have hbound := boundWord_bindName_self r (widenCount (bitlenOfCount (clz32 x)))
    (answerClz32 x (clz32 x) (setScript rest s))
  have hcount := clz32_toNat x
  refine ⟨_, _, step_bitlen (some r) rest hx, exec_next (.clz32 x) _, rfl, ?_, ?_,
    fun _ hr => boundWord_bindName_of_ne hr _ _, ?_⟩
  · rw [hbound, widenCount_bitlenOfCount, answerClz32_count]
  · rw [answerClz32_count]
    omega
  · rintro rfl
    rw [hbound]
    rfl

end Sys2Proof.Machine
end

section
/-! PROOFS. The patterns on port `count` (R39). -/

namespace Sys2Proof.Machine

/-- Bit 5 of the count stands for 32, the count of zero alone. -/
theorem clz32_bit5_iff (x : Word) : (clz32 x).getLsbD 5 = true ↔ x = 0 := by
  have hcount := clz32_toNat x
  rw [← BitVec.msb_eq_getLsbD_last (clz32 x), BitVec.msb_eq_decide, decide_eq_true_iff, ← bitLength_eq_zero_iff]
  omega

theorem bitLength_of_highestSetBit_some {x : Word} {p : Nat} (h : highestSetBit x = some p) :
    bitLength x = p + 1 := by
  rw [bitLength, h]

/-- The count of a word with highest set bit `p` (R40). -/
theorem clz32_toNat_of_highestSetBit_some {x : Word} {p : Nat} (h : highestSetBit x = some p) :
    (clz32 x).toNat = 31 - p := by
  rw [clz32_toNat, bitLength_of_highestSetBit_some h]
  omega

/-- The low five bits of a count below 32 are the complement of the highest set bit's index. -/
theorem clz32_low_of_highestSetBit_some {x : Word} {p : Nat} (h : highestSetBit x = some p) :
    (clz32 x).extractLsb' 0 5 = ~~~(BitVec.ofNat 5 p) := by
  obtain ⟨hp, -, -⟩ := highestSetBelow_some h
  apply BitVec.eq_of_toNat_eq
  rw [BitVec.extractLsb'_toNat, Nat.shiftRight_zero, clz32_toNat_of_highestSetBit_some h, BitVec.toNat_not,
    BitVec.toNat_ofNat]
  omega

/-- The word of `k` ones has bit length `k`. -/
theorem bitLength_ofNat_two_pow_sub_one {k : Nat} (hk : k ≤ 32) : bitLength (BitVec.ofNat 32 (2 ^ k - 1)) = k := by
  have hpos := Nat.two_pow_pos k
  have hfits : 2 ^ k ≤ 2 ^ 32 := Nat.pow_le_pow_right Nat.two_pos hk
  refine eq_of_forall_ge_iff fun j => ?_
  rw [bitLength_le_iff, BitVec.toNat_ofNat, Nat.mod_eq_of_lt (by omega), ← Nat.pow_le_pow_iff_right Nat.one_lt_two]
  omega

/-- Every count up to 32 is the count of the word of as many ones as it leaves. -/
theorem clz32_of_ones {c : Count} (hc : c.toNat ≤ 32) : clz32 (BitVec.ofNat 32 (2 ^ (32 - c.toNat) - 1)) = c := by
  apply BitVec.eq_of_toNat_eq
  rw [clz32_toNat, bitLength_ofNat_two_pow_sub_one (Nat.sub_le 32 _)]
  omega

/-- Settles O17: the count is the complement of the bit length, which takes every value from 0 to 32. -/
theorem countWordPatterns : Obligations.CountWordPatterns := by
  constructor
  · intro x s
    refine ⟨_, exec_next (.clz32 x) s, ?_, clz32_bit5_iff x, ?_,
      fun p hp => ⟨clz32_low_of_highestSetBit_some hp, clz32_toNat_of_highestSetBit_some hp⟩⟩
    · rw [BitVec.le_def, answerClz32_count, clz32_toNat]
      exact Nat.sub_le 32 _
    · rintro rfl
      exact (clz32_eq_clzContract 0).trans clzContract_zero
  · exact fun c hc => ⟨_, fun s => ⟨_, exec_next (.clz32 _) s, clz32_of_ones hc⟩⟩

end Sys2Proof.Machine
end

section
/-! SUPPORT. What one round of CLZ32 reads and leaves (R44), and the induction over the five rounds, each of which
halves the window that holds the value (R51). -/

namespace Sys2Proof.Machine

/-- Each round's stride is half of the stride before it (R33). -/
theorem stride_eq_two_mul {k : Nat} (hk : k < 4) : Config.stride (k + 1) = 2 * Config.stride (k + 2) := by
  interval_cases k <;> rfl

theorem stride_le_16 {k : Nat} (hk : k < 5) : Config.stride (k + 1) ≤ 16 := by
  interval_cases k <;> decide

/-- The induction over the rounds: what holds of the start with the whole word as window, and what every round passes on
to half of its window, holds before and after each of the five rounds. -/
theorem clzAfter_window {P : Nat → Running → Prop} {x : Word} (hstart : P 32 (clzStart x))
    (hround : ∀ c r, c ≤ 16 → P (2 * c) r → P c (clzRound c r)) {k : Nat} (hk : k < 5) :
    P (2 * Config.stride (k + 1)) (clzAfter k x) ∧ P (Config.stride (k + 1)) (clzAfter (k + 1) x) := by
  suffices hbefore : P (2 * Config.stride (k + 1)) (clzAfter k x) from
    ⟨hbefore, hround _ _ (stride_le_16 hk) hbefore⟩
  induction k with
  | zero => exact hstart
  | succ k ih =>
    rw [← stride_eq_two_mul (by omega)]
    exact hround _ _ (stride_le_16 (by omega)) (ih (by omega))

/-! The value. -/

theorem clzProbe_toNat (c : Nat) (r : Running) : (clzProbe c r).toNat = r.value.toNat / 2 ^ c := by
  rw [clzProbe, BitVec.toNat_ushiftRight, Nat.shiftRight_eq_div_pow]

theorem clzTaken_iff (c : Nat) (r : Running) : clzTaken c r = true ↔ clzProbe c r ≠ 0 := by
  rw [clzTaken, nonzero, bne_iff_ne]

/-- A round that is not taken leaves a value below its stride's power of two. -/
theorem toNat_lt_of_clzTaken_false {c : Nat} {r : Running} (h : clzTaken c r = false) : r.value.toNat < 2 ^ c := by
  rcases clzRound_spec c r with ⟨htaken, -⟩ | ⟨-, hlt, -⟩
  · simp [h] at htaken
  · exact hlt

/-- The sum and the window of `RunningCounts`, before and after round `k + 1`. -/
theorem clzAfter_counts (x : Word) {k : Nat} (hk : k < 5) :
    RunningCounts x (2 * Config.stride (k + 1)) (clzAfter k x) ∧
    RunningCounts x (Config.stride (k + 1)) (clzAfter (k + 1) x) :=
  clzAfter_window (clzStart_counts x) (fun _ _ _ => clzRound_counts (by omega)) hk

theorem clzX_lt_before (x : Word) {k : Nat} (hk : k < 5) : (clzX k x).toNat < 2 ^ (2 * Config.stride (k + 1)) := by
  obtain ⟨⟨-, hwindow⟩, -⟩ := clzAfter_counts x hk
  exact (bitLength_le_iff _ _).mp hwindow

/-- The window law (R51). -/
theorem clzX_lt_after (x : Word) {k : Nat} (hk : k < 5) : (clzX (k + 1) x).toNat < 2 ^ Config.stride (k + 1) := by
  obtain ⟨-, -, hwindow⟩ := clzAfter_counts x hk
  exact (bitLength_le_iff _ _).mp hwindow

/-- A taken round leaves its nonzero probe, and any other round its value. -/
theorem clzRound_value_eq_zero_iff (c : Nat) (r : Running) : (clzRound c r).value = 0 ↔ r.value = 0 := by
  rcases clzRound_spec c r with ⟨-, hne, hvalue, -⟩ | ⟨-, -, hsame⟩
  · rw [← BitVec.toNat_inj, ← BitVec.toNat_inj, hvalue]
    exact iff_of_false hne fun h0 => hne (by rw [h0]; exact Nat.zero_div _)
  · rw [hsame]

theorem clzX_eq_zero_iff (k : Nat) (x : Word) : clzX k x = 0 ↔ x = 0 := by
  induction k with
  | zero => rfl
  | succ k ih => exact (clzRound_value_eq_zero_iff _ _).trans ih

/-- The rounds leave one bit, which is 1 for every word but zero (R49). -/
theorem clzX_rounds_lt_two (x : Word) : (clzX 5 x).toNat < 2 :=
  clzX_lt_after x (by decide : 4 < 5)

theorem clzX_rounds_eq_zero_or_one (x : Word) : clzX 5 x = 0 ∨ clzX 5 x = 1 := by
  rw [← BitVec.toNat_inj, ← BitVec.toNat_inj]
  exact Nat.le_one_iff_eq_zero_or_eq_one.mp (Nat.le_of_lt_succ (clzX_rounds_lt_two x))

theorem clzX_rounds_eq_one {x : Word} (hx : x ≠ 0) : clzX 5 x = 1 :=
  (clzX_rounds_eq_zero_or_one x).resolve_left (mt (clzX_eq_zero_iff 5 x).mp hx)

/-! The width. -/

/-- The running width is a multiple of the window, at least the window, and at most 32 (R45 to R49). -/
structure WidthFits (window : Nat) (width : Count) : Prop where
  dvd : window ∣ width.toNat
  le : window ≤ width.toNat
  le_32 : width.toNat ≤ 32

/-- A round's subtraction is exact when its stride does not exceed the width (R44). -/
theorem clzRound_width_toNat {c : Nat} {r : Running} (hc : c ≤ r.width.toNat) :
    (clzRound c r).width.toNat = r.width.toNat - if clzTaken c r then c else 0 := by
  rcases clzRound_spec c r with ⟨htaken, -, -, hwidth⟩ | ⟨htaken, -, hsame⟩
  · have hstride : (BitVec.ofNat 6 c).toNat = c := Nat.mod_eq_of_lt (hc.trans_lt r.width.isLt)
    rw [hwidth, htaken, if_pos rfl, BitVec.toNat_sub_of_le (by rwa [BitVec.le_def, hstride]), hstride]
  · rw [hsame, htaken]
    rfl

theorem clzRound_widthFits {c : Nat} {r : Running} (h : WidthFits (2 * c) r.width) :
    WidthFits c (clzRound c r).width := by
  obtain ⟨hdvd, hle, hle32⟩ := h
  have hwidth := clzRound_width_toNat (c := c) (r := r) (by omega)
  have hdvd' : c ∣ r.width.toNat := (Nat.dvd_mul_left c 2).trans hdvd
  split at hwidth
  · exact ⟨hwidth ▸ Nat.dvd_sub hdvd' dvd_rfl, by omega, by omega⟩
  · exact ⟨hwidth ▸ hdvd', by omega, by omega⟩

/-- Before round `k + 1` the width is at least twice its stride, and after it at least the stride (R44). -/
theorem clzN_widthFits (x : Word) {k : Nat} (hk : k < 5) :
    WidthFits (2 * Config.stride (k + 1)) (clzN k x) ∧ WidthFits (Config.stride (k + 1)) (clzN (k + 1) x) :=
  clzAfter_window (P := fun window r => WidthFits window r.width) ⟨dvd_rfl, le_rfl, le_rfl⟩
    (fun _ _ _ => clzRound_widthFits) hk

theorem clzN_succ_toNat (x : Word) {k : Nat} (hk : k < 5) :
    (clzN (k + 1) x).toNat =
      (clzN k x).toNat - if clzT (k + 1) x then Config.stride (k + 1) else 0 := by
  obtain ⟨-, hle, -⟩ := (clzN_widthFits x hk).1
  exact clzRound_width_toNat ((Nat.le_mul_of_pos_left _ two_pos).trans hle)

theorem clzN_rounds_pos (x : Word) : 1 ≤ (clzN 5 x).toNat :=
  (clzN_widthFits x (by decide : 4 < 5)).2.le

/-- After the rounds, the width and the word's bit length are 32 and the bit that is left (R50). -/
theorem clzN_rounds_add_bitLength (x : Word) :
    (clzN 5 x).toNat + bitLength x = 32 + (clzX 5 x).toNat := by
  obtain ⟨hsum, hbit⟩ := clzAfter_rounds_counts x
  rwa [bitLength_eq_toNat hbit] at hsum

/-! The narrowed datapath. -/

/-- A word below `2^c` has only zeros from bit `c` on. -/
theorem getLsbD_of_toNat_lt {v : Word} {c i : Nat} (h : v.toNat < 2 ^ c) (hi : c ≤ i) : v.getLsbD i = false :=
  Nat.testBit_lt_two_pow (h.trans_le (Nat.pow_le_pow_right Nat.two_pos hi))

theorem extractLsb'_eq_zero_of_toNat_lt {v : Word} {c : Nat} (h : v.toNat < 2 ^ c) (len : Nat) :
    v.extractLsb' c len = 0 := by
  apply BitVec.eq_of_toNat_eq
  rw [BitVec.extractLsb'_toNat, Nat.shiftRight_eq_div_pow, Nat.div_eq_of_lt h]
  exact Nat.zero_mod _

/-- The probe of a value that fits the window is the window's upper half (R45 to R49). -/
theorem clzProbe_eq_clzUpperHalf {c : Nat} {r : Running} (h : r.value.toNat < 2 ^ (2 * c)) :
    clzProbe c r = clzUpperHalf c r.value := by
  have hfits : r.value.toNat / 2 ^ c < 2 ^ c := by
    rwa [Nat.div_lt_iff_lt_mul (Nat.two_pow_pos c), ← pow_add, ← two_mul]
  apply BitVec.eq_of_toNat_eq
  rw [clzProbe_toNat, clzUpperHalf, BitVec.toNat_setWidth, BitVec.extractLsb'_toNat, Nat.shiftRight_eq_div_pow,
    Nat.mod_eq_of_lt hfits, Nat.mod_eq_of_lt ((Nat.div_le_self _ _).trans_lt r.value.isLt)]

/-- Widening loses no bit, so it leaves no other word zero. -/
theorem setWidth_eq_zero_iff {c : Nat} (hc : c ≤ 32) (v : BitVec c) : v.setWidth 32 = 0 ↔ v = 0 := by
  rw [← BitVec.toNat_inj, ← BitVec.toNat_inj, BitVec.toNat_setWidth_of_le hc]
  simp

/-- The lower half of the window is the whole value when nothing stands above it (R52). -/
theorem setWidth_lowerHalf {c : Nat} {v : Word} (h : v.toNat < 2 ^ c) : (v.extractLsb' 0 c).setWidth 32 = v := by
  apply BitVec.eq_of_toNat_eq
  rw [BitVec.toNat_setWidth, BitVec.extractLsb'_toNat, Nat.shiftRight_zero, Nat.mod_eq_of_lt h, Nat.mod_eq_of_lt v.isLt]

/-- On a value that fits its window, a narrowed round is the full-width round (R52). -/
theorem clzNarrowRound_eq {c : Nat} {r : Running} (h : r.value.toNat < 2 ^ (2 * c)) :
    clzNarrowRound c r = clzRound c r := by
  have hprobe := clzProbe_eq_clzUpperHalf h
  have htest : nonzero (clzUpperHalf c r.value) = clzTaken c r := by rw [clzTaken, hprobe]
  rw [clzNarrowRound, htest]
  cases htaken : clzTaken c r with
  | true => simp only [clzRound, htaken, hprobe, if_true]
  | false =>
    have hlower := setWidth_lowerHalf (toNat_lt_of_clzTaken_false htaken)
    simp only [clzRound, htaken, hlower, Bool.false_eq_true, if_false]

theorem clzNarrowAfter_eq (x : Word) {k : Nat} (hk : k ≤ 5) : clzNarrowAfter k x = clzAfter k x := by
  induction k with
  | zero => rfl
  | succ k ih =>
    rw [clzNarrowAfter, ih (by omega), clzNarrowRound_eq (clzX_lt_before x hk), clzAfter]

/-! The signals of round `k + 1`, from those of round `k`. -/

section
variable (x : Word) (k : Nat)

theorem clzX_succ : clzX (k + 1) x = if clzT (k + 1) x then clzY (k + 1) x else clzX k x := rfl

theorem clzN_succ :
    clzN (k + 1) x = if clzT (k + 1) x then clzN k x - BitVec.ofNat 6 (Config.stride (k + 1)) else clzN k x := rfl

theorem clzT_succ_iff : clzT (k + 1) x = true ↔ clzY (k + 1) x ≠ 0 := clzTaken_iff _ _

end

/-- A round reads the upper half of its window (R45 to R49). -/
theorem clzY_succ_eq (x : Word) {k : Nat} (hk : k < 5) :
    clzY (k + 1) x = ((clzX k x).extractLsb' (Config.stride (k + 1)) (Config.stride (k + 1))).setWidth 32 :=
  clzProbe_eq_clzUpperHalf (clzX_lt_before x hk)

/-- Everything that R45 to R49 say of the signals of a round. -/
theorem clzSignals_succ (x : Word) {k : Nat} (hk : k < 5) :
    clzY (k + 1) x = ((clzX k x).extractLsb' (Config.stride (k + 1)) (Config.stride (k + 1))).setWidth 32 ∧
    (clzT (k + 1) x = true ↔ clzY (k + 1) x ≠ 0) ∧
    clzX (k + 1) x = (if clzT (k + 1) x then clzY (k + 1) x else clzX k x) ∧
    clzN (k + 1) x = (if clzT (k + 1) x then clzN k x - BitVec.ofNat 6 (Config.stride (k + 1)) else clzN k x) ∧
    (clzN (k + 1) x).toNat % Config.stride (k + 1) = 0 ∧ Config.stride (k + 1) ≤ (clzN (k + 1) x).toNat ∧
    (clzN (k + 1) x).toNat ≤ 32 ∧ (clzX (k + 1) x).toNat < 2 ^ Config.stride (k + 1) := by
  obtain ⟨hdvd, hle, hle32⟩ := (clzN_widthFits x hk).2
  exact ⟨clzY_succ_eq x hk, clzT_succ_iff x k, clzX_succ x k, clzN_succ x k, Nat.mod_eq_zero_of_dvd hdvd, hle, hle32,
    clzX_lt_after x hk⟩

/-- The width after round 1 (R45). -/
theorem clzN_one (x : Word) : clzN 1 x = if clzT 1 x then 16 else 32 := by
  have hstart : clzN 0 x = 32 := rfl
  rw [clzN_succ x 0, hstart]
  rfl

/-- The narrowed flag test (R52). -/
theorem clzT_succ_iff_extract (x : Word) {k : Nat} (hk : k < 5) :
    clzT (k + 1) x = true ↔ (clzX k x).extractLsb' (Config.stride (k + 1)) (Config.stride (k + 1)) ≠ 0 := by
  have hstride := stride_le_16 hk
  rw [clzT_succ_iff, clzY_succ_eq x hk, ne_eq, setWidth_eq_zero_iff (by omega)]

/-- The last round reads one bit (R49). -/
theorem clzT_five_eq (x : Word) : clzT 5 x = (clzX 4 x).getLsbD 1 := by
  have hflag : clzT 5 x = true ↔ (clzX 4 x).extractLsb' 1 1 ≠ 0 := clzT_succ_iff_extract x (by decide : 4 < 5)
  have hbit : (clzX 4 x).getLsbD 1 = ((clzX 4 x).extractLsb' 1 1).getLsbD 0 := by
    rw [BitVec.getLsbD_extractLsb']
    rfl
  rw [Bool.eq_iff_iff, hflag, hbit]
  generalize (clzX 4 x).extractLsb' 1 1 = b
  revert b
  decide

/-- The half of the window that a round leaves (R52). -/
theorem clzX_succ_extract (x : Word) {k : Nat} (hk : k < 5) :
    (clzX (k + 1) x).extractLsb' 0 (Config.stride (k + 1)) =
      if clzT (k + 1) x then (clzX k x).extractLsb' (Config.stride (k + 1)) (Config.stride (k + 1))
      else (clzX k x).extractLsb' 0 (Config.stride (k + 1)) := by
  have hstride := stride_le_16 hk
  rw [clzX_succ, clzY_succ_eq x hk]
  split
  · rw [BitVec.extractLsb'_setWidth_of_le (by omega), BitVec.extractLsb'_eq_self]
  · rfl

end Sys2Proof.Machine
end

section
/-! SUPPORT. The closed form of the datapath (R53): the taken strides add up to the index of the highest set bit. -/

namespace Sys2Proof.Machine

/-- The rounds shift the word by the strides they take. -/
theorem clzX_eq_shift (k : Nat) (x : Word) : clzX k x = x >>> clzTakenSum k x := by
  induction k with
  | zero => rfl
  | succ k ih =>
    rw [clzX_succ, clzTakenSum]
    split
    · rw [BitVec.shiftRight_add, ← ih]
      rfl
    · exact ih

/-- The rounds take their strides off the width. -/
theorem clzN_add_clzTakenSum (x : Word) {k : Nat} (hk : k ≤ 5) : (clzN k x).toNat + clzTakenSum k x = 32 := by
  induction k with
  | zero => rfl
  | succ k ih =>
    have hsum := ih (by omega)
    have hstep := clzN_succ_toNat x hk
    obtain ⟨-, hle, -⟩ := (clzN_widthFits x hk).1
    rw [clzTakenSum]
    split at hstep
    next htaken => rw [if_pos htaken]; omega
    next htaken => rw [if_neg htaken]; omega

/-- A stride that is taken or not, as a product with its flag (R53). -/
theorem ite_eq_mul_toNat (b : Bool) (c : Nat) : (if b then c else 0) = c * b.toNat := by
  cases b <;> simp

theorem clzTakenSum_rounds (x : Word) : clzTakenSum 5 x = clzIndex x := by
  simp only [clzTakenSum, clzIndex, ite_eq_mul_toNat, Config.stride, zero_add, one_mul, Nat.reduceAdd]

theorem clzIndex_le_31 (x : Word) : clzIndex x ≤ 31 := by
  have h1 := Bool.toNat_le (clzT 1 x)
  have h2 := Bool.toNat_le (clzT 2 x)
  have h3 := Bool.toNat_le (clzT 3 x)
  have h4 := Bool.toNat_le (clzT 4 x)
  have h5 := Bool.toNat_le (clzT 5 x)
  unfold clzIndex
  omega

theorem clzN_rounds_eq (x : Word) : (clzN 5 x).toNat = 32 - clzIndex x := by
  have hsum := clzN_add_clzTakenSum x (le_refl 5)
  rw [clzTakenSum_rounds] at hsum
  omega

/-- A nonzero word's index is its bit length less one. -/
theorem bitLength_eq_clzIndex_add_one {x : Word} (hx : x ≠ 0) : bitLength x = clzIndex x + 1 := by
  have hsum := clzN_rounds_add_bitLength x
  have hwidth := clzN_rounds_eq x
  have hindex := clzIndex_le_31 x
  have hone : (clzX 5 x).toNat = 1 := by rw [clzX_rounds_eq_one hx]; rfl
  omega

/-- The five flags of a word, in the order of the rounds. -/
def clzFlags (x : Word) : List Bool :=
  [clzT 1 x, clzT 2 x, clzT 3 x, clzT 4 x, clzT 5 x]

/-- The flags are the bits of the number that they spell, the highest first. -/
theorem clzFlags_eq_testBit (x : Word) : clzFlags x =
    [(clzIndex x).testBit 4, (clzIndex x).testBit 3, (clzIndex x).testBit 2, (clzIndex x).testBit 1,
      (clzIndex x).testBit 0] := by
  have hspell : ∀ a b c d e : Bool,
      let p := 16 * a.toNat + 8 * b.toNat + 4 * c.toNat + 2 * d.toNat + e.toNat
      [a, b, c, d, e] = [p.testBit 4, p.testBit 3, p.testBit 2, p.testBit 1, p.testBit 0] := by decide
  exact hspell _ _ _ _ _

theorem clzFlags_zero : clzFlags 0 = [false, false, false, false, false] := by decide

/-- The highest set bit is the one that the bit length ends with (R9, R40). -/
theorem highestSetBit_eq_some_iff (x : Word) (p : Nat) : highestSetBit x = some p ↔ bitLength x = p + 1 := by
  unfold bitLength
  cases highestSetBit x <;> simp

theorem highestSetBit_eq_clzIndex {x : Word} (hx : x ≠ 0) : highestSetBit x = some (clzIndex x) :=
  (highestSetBit_eq_some_iff x _).mpr (bitLength_eq_clzIndex_add_one hx)

end Sys2Proof.Machine
end

section
/-! SUPPORT. The laws of CLZ32's value (R40, R41), from its being what the bit length leaves of 32. -/

namespace Sys2Proof.Machine

/-- The bit length read off the bits: from it on, every bit is 0. -/
theorem bitLength_le_iff_bits (x : Word) (k : Nat) :
    bitLength x ≤ k ↔ ∀ i, k ≤ i → i < 32 → x.getLsbD i = false := by
  rw [bitLength_le_iff]
  constructor
  · exact fun hlt i hi _ => getLsbD_of_toNat_lt hlt hi
  · intro hbits
    refine Nat.lt_pow_two_of_testBit _ fun i hi => ?_
    rw [BitVec.testBit_toNat]
    by_cases h32 : i < 32
    · exact hbits i hi h32
    · exact BitVec.getLsbD_of_ge x i (by omega)

/-- A set bit with only zeros above it is the highest set bit (R40). -/
theorem highestSetBit_of_bits {x : Word} {p : Nat} (hp : p < 32) (hset : x.getLsbD p = true)
    (habove : ∀ i, p < i → i < 32 → x.getLsbD i = false) : highestSetBit x = some p := by
  have hle : bitLength x ≤ p + 1 := (bitLength_le_iff_bits x _).mpr habove
  have hgt : ¬ bitLength x ≤ p := by
    rw [bitLength_le_iff_bits]
    intro h
    simp [h p le_rfl hp] at hset
  rw [highestSetBit_eq_some_iff]
  omega

theorem highestSetBit_of_bit31 {x : Word} (h : x.getLsbD 31 = true) : highestSetBit x = some 31 :=
  highestSetBit_of_bits (by decide) h fun i hi hi32 => by omega

/-- The indices from `b` on, of the first `n`. -/
theorem length_filter_range_le (b n : Nat) : ((List.range n).filter fun i => decide (b ≤ i)).length = n - b := by
  induction n with
  | zero => simp
  | succ n ih =>
    rw [List.range_succ, List.filter_append, List.length_append, ih]
    by_cases hb : b ≤ n
    · simp only [hb, decide_true, List.filter_cons_of_pos, List.filter_nil, List.length_singleton]
      omega
    · simp only [hb, decide_false, Bool.false_eq_true, not_false_eq_true, List.filter_cons_of_neg, List.filter_nil,
        List.length_nil]
      omega

/-- The second wording of R40: an index has only zeros from it to bit 31 exactly from the bit length on. -/
theorem all_zero_from_eq (x : Word) (i : Nat) :
    ((List.range 32).all fun j => decide (j < i) || !x.getLsbD j) = decide (bitLength x ≤ i) := by
  rw [Bool.eq_iff_iff, decide_eq_true_iff, bitLength_le_iff_bits, List.all_eq_true]
  simp only [List.mem_range, Bool.or_eq_true, decide_eq_true_eq, Bool.not_eq_true', ← not_lt]
  exact forall_congr' fun j => by tauto

/-- The two wordings of R40 count the same. -/
theorem clz32_toNat_eq_length_filter (x : Word) : (clz32 x).toNat =
    ((List.range 32).filter fun i => (List.range 32).all fun j => decide (j < i) || !x.getLsbD j).length := by
  simp only [all_zero_from_eq, length_filter_range_le, clz32_toNat]

theorem clz32_le_32 (x : Word) : (clz32 x).toNat ≤ 32 := by
  rw [clz32_toNat]
  exact Nat.sub_le _ _

theorem clz32_zero : clz32 0 = 32 := by decide

/-- The counts of the words that R40 and R50 give as examples. -/
theorem clz32_examples : clz32 1 = 31 ∧ clz32 0x00010000 = 15 ∧ clz32 0x0001FFFF = 15 ∧ clz32 0x000001FD = 23 ∧
    clz32 0x00F00000 = 8 := by decide

theorem clz32_eq_32_iff (x : Word) : clz32 x = 32 ↔ x = 0 := by
  constructor
  · intro h
    rw [← clz32_bit5_iff, h]
    rfl
  · rintro rfl
    exact clz32_zero

/-- A word with bit 31 set has no leading zero. -/
theorem clz32_of_bit31 {x : Word} (h : x.getLsbD 31 = true) : clz32 x = 0 :=
  BitVec.eq_of_toNat_eq (clz32_toNat_of_highestSetBit_some (highestSetBit_of_bit31 h))

/-- The bounds of R41 hold of the count of a nonzero word and of no other number, truncated powers included. -/
theorem clzBounds_iff {x : Word} (hx : x ≠ 0) (c : Nat) :
    2 ^ (31 - c) ≤ x.toNat ∧ x.toNat < 2 ^ (32 - c) ↔ c = (clz32 x).toNat := by
  have hlen := bitLength_le_32 x
  have hpos : bitLength x ≠ 0 := fun h0 => hx ((bitLength_eq_zero_iff x).mp h0)
  rw [← not_lt, ← bitLength_le_iff, ← bitLength_le_iff, clz32_toNat]
  omega

end Sys2Proof.Machine
end

section
/-! PROOFS. The statements about CLZ32 (R40 to R56). -/

namespace Sys2Proof.Machine

open Sys2Proof.Claims

/-- Settles O8: the start values are a copy of the word and a constant. -/
theorem datapathStartsFromTheWordAnd32 : Obligations.DatapathStartsFromTheWordAnd32 :=
  ⟨fun _ => ⟨rfl, rfl⟩, rfl, rfl⟩

/-- Settles O9: the probe is a shift, and the width is a multiple of the window throughout. -/
theorem roundProbesAndShrinksWithoutWrap : Obligations.RoundProbesAndShrinksWithoutWrap := by
  refine ⟨rfl, fun x k hk1 hk5 => ?_, by decide, by decide⟩
  obtain ⟨k, rfl⟩ := Nat.exists_eq_add_of_le' hk1
  obtain ⟨hbefore, hafter⟩ := clzN_widthFits x hk5
  exact ⟨clzProbe_toNat _ _, clzT_succ_iff x k, clzX_succ x k, hbefore.le, clzN_succ_toNat x hk5, hafter.le⟩

/-- Settles O10: each round is read off the general round at its stride. -/
theorem roundsReadTheUpperHalfOfTheWindow : Obligations.RoundsReadTheUpperHalfOfTheWindow := by
  refine ⟨fun x => ?_, fun x => ?_, fun x => clzSignals_succ x (by decide : 2 < 5),
    fun x => clzSignals_succ x (by decide : 3 < 5), fun x => ?_, by decide, by decide, by decide⟩
  · obtain ⟨hprobe, -, hvalue, -, -, -, -, hlt⟩ := clzSignals_succ x (by decide : 0 < 5)
    exact ⟨hprobe, clzT_succ_iff_extract x (by decide : 0 < 5), hvalue, clzN_one x,
      extractLsb'_eq_zero_of_toNat_lt hlt 16⟩
  · obtain ⟨hprobe, htaken, hvalue, hwidth, -, -, -, hlt⟩ := clzSignals_succ x (by decide : 1 < 5)
    refine ⟨hprobe, htaken, hvalue, hwidth, fun hfirst => ?_, fun hfirst => ?_, hlt⟩
    all_goals
      rw [hwidth, clzN_one, hfirst]
      cases clzT 2 x <;> decide
  · obtain ⟨hprobe, htaken, hvalue, hwidth, -, hle, hle32, -⟩ := clzSignals_succ x (by decide : 4 < 5)
    exact ⟨hprobe, clzT_five_eq x, htaken, hvalue, hwidth, hle, hle32, clzX_rounds_eq_zero_or_one x,
      clzX_eq_zero_iff 5 x⟩

/-- Settles O12: the window law, and that no round makes a nonzero value zero. -/
theorem windowHalvesEachRound : Obligations.WindowHalvesEachRound := by
  intro x k hk1 hk5
  obtain ⟨k, rfl⟩ := Nat.exists_eq_add_of_le' hk1
  have hlt := clzX_lt_after x hk5
  exact ⟨hlt, fun _ hi => getLsbD_of_toNat_lt hlt hi, clzX_eq_zero_iff _ x⟩

/-- Settles O13: the window law makes the narrowed round the full-width one. -/
theorem narrowedDatapathAgrees : Obligations.NarrowedDatapathAgrees := by
  refine ⟨fun x k hk => clzNarrowAfter_eq x hk, fun x k hk1 hk5 => ?_⟩
  obtain ⟨k, rfl⟩ := Nat.exists_eq_add_of_le' hk1
  exact ⟨clzT_succ_iff_extract x hk5, clzX_succ_extract x hk5,
    extractLsb'_eq_zero_of_toNat_lt (clzX_lt_after x hk5) _⟩

/-- Settles O15: every law is one of the bit length. -/
theorem datapathMeetsTheContract : Obligations.DatapathMeetsTheContract := fun x =>
  ⟨clz32_eq_clzContract x, clz32_le_32 x, clz32_eq_32_iff x, fun hx => (clzBounds_iff hx _).mpr rfl⟩

/-- Settles O6: the bounds hold of the count and of no other number. -/
theorem clz32ValueLaws : Obligations.Clz32ValueLaws := fun x s =>
  ⟨_, exec_next (.clz32 x) s, clz32_le_32 x, (clz32_eq_32_iff x).symm, fun hx => (clzBounds_iff hx _).mpr rfl,
    fun hx c hlow hhigh => (clzBounds_iff hx c).mp ⟨hlow, hhigh⟩⟩

/-- Settles O16: the count is what the bit length leaves of 32, in every state. -/
theorem clz32TestableProperties : Obligations.Clz32TestableProperties := by
  intro x s s'
  refine ⟨_, _, exec_next (.clz32 x) s, exec_next (.clz32 x) s', ?_, (clz32_eq_32_iff x).mpr, Nat.zero_le _,
    clz32_le_32 x, rfl⟩
  have hlen := bitLength_le_32 x
  rw [answerClz32_count, clz32_toNat]
  omega

/-- Settles O5: both wordings of R40 count what the bit length leaves of 32. -/
theorem clz32CountsLeadingZeros : Obligations.Clz32CountsLeadingZeros := by
  intro x s
  obtain ⟨hone, hleast, hgreatest, hexample, -⟩ := clz32_examples
  refine ⟨_, exec_next (.clz32 x) s, rfl, (clz32_eq_32_iff x).mpr,
    fun p hp hset habove => clz32_toNat_of_highestSetBit_some (highestSetBit_of_bits hp hset habove),
    clz32_toNat_eq_length_filter x, clz32_bit5_iff x, ?_, clz32_of_bit31, ?_, ?_⟩
  · rintro rfl
    exact hone
  · rintro (rfl | rfl)
    exacts [hleast, hgreatest]
  · rintro rfl
    exact hexample

/-- Settles O14: the flags' index is one less than the bit length. -/
theorem flagsSpellTheHighestBit : Obligations.FlagsSpellTheHighestBit := by
  refine ⟨fun x => ⟨clzIndex_le_31 x, clzN_rounds_eq x⟩, fun x k _ => clzX_eq_shift k x, fun x s => ?_⟩
  refine ⟨_, exec_next (.clz32 x) s, fun hx => ?_, ?_⟩
  · have hhighest := highestSetBit_eq_clzIndex hx
    exact ⟨clzX_rounds_eq_one hx, hhighest, clz32_toNat_of_highestSetBit_some hhighest,
      clz32_low_of_highestSetBit_some hhighest, Bool.eq_false_iff.mpr (mt (clz32_bit5_iff x).mp hx)⟩
  · rintro rfl
    exact ⟨by decide, (clzX_eq_zero_iff 5 0).mpr rfl, clz32_zero, (clz32_bit5_iff 0).mpr rfl,
      congrArg (BitVec.extractLsb' 0 5) clz32_zero, clzFlags_zero⟩

/-- Settles O11: the width and the last bit differ by what the bit length leaves of 32. -/
theorem finalSubtractionDrivesCount : Obligations.FinalSubtractionDrivesCount := by
  intro x s
  obtain ⟨-, -, -, -, hexample⟩ := clz32_examples
  have hbit := clzX_rounds_lt_two x
  have hsum := clzN_rounds_add_bitLength x
  have hwidth := clzN_rounds_pos x
  refine ⟨_, exec_next (.clz32 x) s, rfl, hwidth, by omega, ?_, ?_, fun h => ?_, ?_⟩
  · rw [answerClz32_count, clz32_toNat]
    omega
  · rintro rfl
    exact ⟨by decide, (clzX_eq_zero_iff 5 0).mpr rfl, clz32_zero, clzFlags_zero⟩
  · have hlen := (highestSetBit_eq_some_iff x 31).mp (highestSetBit_of_bit31 h)
    have hindex := clzN_rounds_eq x
    have hall : clzIndex x = 31 := by omega
    refine ⟨BitVec.eq_of_toNat_eq (hindex.trans (by rw [hall]; rfl)), BitVec.eq_of_toNat_eq (show _ = 1 by omega),
      clz32_of_bit31 h, ?_⟩
    exact (clzFlags_eq_testBit x).trans (by rw [hall]; rfl)
  · rintro rfl
    exact hexample

/-- Every row of the table of R42 is the interval between two powers of two, with the exponent in its flags. -/
theorem clzRows_shape : ∀ r ∈ clzRows, r.least.toNat = 2 ^ r.flags.toNat ∧
    r.greatest.toNat = 2 ^ (r.flags.toNat + 1) - 1 ∧ r.count.toNat = 31 - r.flags.toNat := by
  decide

/-- The rows of R42 have every exponent up to 31. -/
theorem clzRows_cover : ∀ p < 32, ∃ r ∈ clzRows, r.flags.toNat = p := by
  decide

/-- A row's interval holds the words whose highest set bit its flags spell (R42). -/
theorem clzRow_holds_iff {r : ClzRow} (hr : r ∈ clzRows) (x : Word) :
    r.least ≤ x ∧ x ≤ r.greatest ↔ highestSetBit x = some r.flags.toNat := by
  obtain ⟨hleast, hgreatest, -⟩ := clzRows_shape r hr
  have hlow := bitLength_le_iff x r.flags.toNat
  have hhigh := bitLength_le_iff x (r.flags.toNat + 1)
  have hpos := Nat.two_pow_pos (r.flags.toNat + 1)
  rw [BitVec.le_def, BitVec.le_def, hleast, hgreatest, highestSetBit_eq_some_iff]
  omega

/-- Settles O7: a row's interval fixes the highest set bit, which fixes the count and the flags. -/
theorem clz32IntervalTable : Obligations.Clz32IntervalTable := by
  refine ⟨fun x s => ⟨_, exec_next (.clz32 x) s, fun r hr hleast hgreatest => ?_, ?_⟩, fun x hx => ?_⟩
  · have hhighest := (clzRow_holds_iff hr x).mp ⟨hleast, hgreatest⟩
    obtain ⟨-, -, hcount⟩ := clzRows_shape r hr
    have hx : x ≠ 0 := by
      rintro rfl
      cases hhighest
    have hindex : clzIndex x = r.flags.toNat := Option.some.inj ((highestSetBit_eq_clzIndex hx).symm.trans hhighest)
    refine ⟨BitVec.eq_of_toNat_eq ((clz32_toNat_of_highestSetBit_some hhighest).trans hcount.symm), hhighest, ?_⟩
    exact (clzFlags_eq_testBit x).trans (by rw [hindex]; rfl)
  · rintro rfl
    exact ⟨clz32_zero, rfl, clzFlags_zero⟩
  · obtain ⟨r, hr, hflags⟩ := clzRows_cover (clzIndex x) (Nat.lt_succ_of_le (clzIndex_le_31 x))
    exact ⟨r, hr, (clzRow_holds_iff hr x).mpr (hflags ▸ highestSetBit_eq_clzIndex hx)⟩

end Sys2Proof.Machine
end

section
/-! SUPPORT. The bit length by numbers: at a power of two, at an exact mask, as the logarithms of R60, and as the test
of bit 31. -/

namespace Sys2Proof.Machine

/-- The bit length is fixed by the two consecutive powers of two around the word (R9). -/
theorem bitLength_eq_succ_iff (n : Word) (j : Nat) : bitLength n = j + 1 ↔ 2 ^ j ≤ n.toNat ∧ n.toNat < 2 ^ (j + 1) := by
  rw [← not_lt, ← bitLength_le_iff, ← bitLength_le_iff]
  omega

theorem toNat_lt_two_pow_bitLength (n : Word) : n.toNat < 2 ^ bitLength n :=
  (bitLength_le_iff n _).mp le_rfl

theorem bitLength_of_toNat_eq_two_pow {n : Word} {j : Nat} (h : n.toNat = 2 ^ j) : bitLength n = j + 1 :=
  (bitLength_eq_succ_iff n j).mpr ⟨h.ge, h.trans_lt (Nat.pow_lt_pow_succ Nat.one_lt_two)⟩

theorem bitLength_of_toNat_eq_two_pow_sub_one {n : Word} {k : Nat} (h : n.toNat = 2 ^ k - 1) : bitLength n = k := by
  have hpos := Nat.two_pow_pos k
  refine eq_of_forall_ge_iff fun j => ?_
  rw [bitLength_le_iff, h, ← Nat.pow_le_pow_iff_right Nat.one_lt_two]
  omega

/-- The bit length of a nonzero word by the logarithm rounded down (R60). -/
theorem bitLength_eq_log {n : Word} (hn : n ≠ 0) : bitLength n = Nat.log 2 n.toNat + 1 := by
  have hne : n.toNat ≠ 0 := fun h0 => hn (BitVec.eq_of_toNat_eq h0)
  exact (bitLength_eq_succ_iff n _).mpr ⟨Nat.pow_log_le_self 2 hne, Nat.lt_pow_succ_log_self Nat.one_lt_two _⟩

/-- The bit length of every word by the logarithm rounded up (R60). -/
theorem bitLength_eq_clog (n : Word) : bitLength n = Nat.clog 2 (n.toNat + 1) :=
  eq_of_forall_ge_iff fun k => by rw [bitLength_le_iff, Nat.clog_le_iff_le_pow Nat.one_lt_two, Nat.succ_le_iff]

theorem bitLength_eq_32_iff (n : Word) : bitLength n = 32 ↔ n.getLsbD 31 = true := by
  have hlen := bitLength_le_32 n
  have hbit : bitLength n ≤ 31 ↔ n.getLsbD 31 = false := by
    rw [bitLength_le_iff_bits]
    exact ⟨fun h => h 31 le_rfl (by decide), fun h i hlow hhigh => by rwa [show i = 31 by omega]⟩
  rw [← Bool.not_eq_false, ← hbit]
  omega

theorem two_pow_31_le_iff (n : Word) : 2 ^ 31 ≤ n.toNat ↔ n.getLsbD 31 = true := by
  have hlen := bitLength_le_32 n
  rw [← not_lt, ← bitLength_le_iff, ← bitLength_eq_32_iff]
  omega

end Sys2Proof.Machine
end

section
/-! SUPPORT. SMASK's conversion, domain and stages (R58 to R63) in terms of the bit length. -/

namespace Sys2Proof.Machine

/-- Bit 31 is worth `-2^32` more in the signed value than in the unsigned one (R58). -/
theorem signedValue_eq (n : Word) :
    signedValue n = if n.getLsbD 31 = true then (n.toNat : Int) - 2 ^ 32 else (n.toNat : Int) := by
  rw [signedValue, BitVec.toInt_eq_msb_cond, BitVec.msb_eq_getLsbD_last]
  rfl

/-- The domain leaves out zero and the words with bit 31 set (R63). -/
theorem inDomain_iff_not (n : Word) : inDomain n = true ↔ ¬(n = 0 ∨ n.getLsbD 31 = true) := by
  have hlen := bitLength_le_32 n
  rw [inDomain_iff_bitLength, ← bitLength_eq_zero_iff, ← bitLength_eq_32_iff]
  omega

/-- Outside the domain the signed value is not positive (R63). -/
theorem zero_or_bit31_iff_signedValue (n : Word) : n = 0 ∨ n.getLsbD 31 = true ↔ signedValue n ≤ 0 := by
  have hlt := n.isLt
  have hzero : n = 0 ↔ n.toNat = 0 := BitVec.toNat_inj.symm
  rw [signedValue_eq, hzero]
  split
  next hbit => exact iff_of_true (.inr hbit) (by omega)
  next hbit =>
    rw [or_iff_left hbit]
    omega

/-- The domain as signed values (R63). -/
theorem inDomain_iff_signedValue (n : Word) :
    inDomain n = true ↔ 1 ≤ signedValue n ∧ signedValue n ≤ 2 ^ 31 - 1 := by
  have hupper : signedValue n ≤ 2 ^ 31 - 1 := Int.le_sub_one_of_lt BitVec.toInt_lt
  rw [inDomain_iff_not, zero_or_bit31_iff_signedValue]
  omega

theorem ne_zero_of_inDomain {n : Word} (h : inDomain n = true) : n ≠ 0 :=
  fun hn => (inDomain_iff_not n).mp h (.inl hn)

theorem smaskWith_of_inDomain (ood : Word → Word) {n : Word} (h : inDomain n = true) :
    smaskWith ood n = smaskDatapath n :=
  if_pos h

theorem smaskWith_of_not_inDomain (ood : Word → Word) {n : Word} (h : inDomain n = false) : smaskWith ood n = ood n :=
  if_neg (by rw [h]; exact Bool.false_ne_true)

/-- The answer outside the domain is the free value (R63). -/
theorem smask_of_zero_or_bit31 {n : Word} (h : n = 0 ∨ n.getLsbD 31 = true) : smask n = Config.smOod n :=
  smaskWith_of_not_inDomain _ (Bool.eq_false_iff.mpr fun hin => (inDomain_iff_not n).mp hin h)

theorem smask_of_inDomain {n : Word} (h : inDomain n = true) : smask n = BitVec.ofNat 32 (2 ^ bitLength n - 1) := by
  rw [smask_eq, if_pos h]

/-- The word of `k` ones is the number `2^k - 1` (R65). -/
theorem toNat_ofNat_two_pow_sub_one {k : Nat} (hk : k ≤ 32) : (BitVec.ofNat 32 (2 ^ k - 1)).toNat = 2 ^ k - 1 := by
  have hfits : 2 ^ k ≤ 2 ^ 32 := Nat.pow_le_pow_right Nat.two_pos hk
  have hpos := Nat.two_pow_pos k
  rw [BitVec.toNat_ofNat, Nat.mod_eq_of_lt (by omega)]

/-- The bits of the word of `k` ones (R62). -/
theorem getLsbD_ofNat_two_pow_sub_one {i : Nat} (k : Nat) (hi : i < 32) :
    (BitVec.ofNat 32 (2 ^ k - 1)).getLsbD i = decide (i < k) := by
  rw [BitVec.getLsbD_ofNat, Nat.testBit_two_pow_sub_one, decide_eq_true hi, Bool.true_and]

/-- SMASK's answer as a number (R65 (a)). -/
theorem smask_toNat {n : Word} (h : inDomain n = true) : (smask n).toNat = 2 ^ bitLength n - 1 := by
  rw [smask_of_inDomain h, toNat_ofNat_two_pow_sub_one (bitLength_le_32 n)]

theorem le_smask {n : Word} (h : inDomain n = true) : n.toNat ≤ (smask n).toNat := by
  rw [smask_toNat h]
  exact Nat.le_sub_one_of_lt (toNat_lt_two_pow_bitLength n)

/-! The stages. -/

/-- A word with bit 31 set has width 32 (R60). -/
theorem smaskWidth_of_bit31 {n : Word} (h : n.getLsbD 31 = true) : smaskWidth n = 32 :=
  BitVec.eq_of_toNat_eq ((smaskWidth_toNat n).trans ((bitLength_eq_32_iff n).mpr h))

theorem smaskWidth_eq_zero_iff (n : Word) : smaskWidth n = 0 ↔ n = 0 := by
  rw [← BitVec.toNat_inj, smaskWidth_toNat, ← bitLength_eq_zero_iff]
  rfl

/-- Bit 5 of the width stands for 32, the width of the words with bit 31 set (R60). -/
theorem smaskWidth_bit5_iff (n : Word) : (smaskWidth n).getLsbD 5 = true ↔ n.getLsbD 31 = true := by
  have hlen := bitLength_le_32 n
  rw [← bitLength_eq_32_iff, ← BitVec.msb_eq_getLsbD_last (smaskWidth n), BitVec.msb_eq_decide, decide_eq_true_iff,
    smaskWidth_toNat]
  omega

theorem smaskCount_toNat (n : Word) : (smaskCount n).toNat = 32 - bitLength n :=
  clz32_toNat n

/-- The power of a width below 32 as a number (R61). -/
theorem smaskPower_toNat {w : Count} (h : w.toNat < 32) : (smaskPower w).toNat = 2 ^ w.toNat := by
  rw [smaskPower_eq h, BitVec.toNat_ofNat, Nat.mod_eq_of_lt (Nat.pow_lt_pow_right Nat.one_lt_two h)]

/-- The power of a width below 32 has one bit set, the one of the width (R61). -/
theorem getLsbD_smaskPower {w : Count} {i : Nat} (h : w.toNat < 32) (hi : i < 32) :
    (smaskPower w).getLsbD i = decide (i = w.toNat) := by
  rw [smaskPower_eq h, BitVec.getLsbD_ofNat, Nat.testBit_two_pow, decide_eq_true hi, Bool.true_and]
  exact decide_eq_decide.mpr eq_comm

/-- The decrement leaves the ones below the width (R62). -/
theorem smaskDecrement_smaskPower {w : Count} (h : w.toNat < 32) :
    smaskDecrement (smaskPower w) = BitVec.ofNat 32 (2 ^ w.toNat - 1) := by
  rw [smaskPower_eq h, smaskDecrement_ofNat_two_pow]

end Sys2Proof.Machine
end

section
/-! SUPPORT. Exact masks (R66, R70) and the words that SMASK leaves as they are (R68). -/

namespace Sys2Proof.Machine

/-- An exact mask is in the domain (R70). -/
theorem inDomain_of_exactMask {m : Word} {k : Nat} (hk1 : 1 ≤ k) (hk31 : k ≤ 31) (hm : m.toNat = 2 ^ k - 1) :
    inDomain m = true := by
  rw [inDomain_iff_bitLength, bitLength_of_toNat_eq_two_pow_sub_one hm]
  exact ⟨hk1, hk31⟩

/-- SMASK leaves a word as it is exactly when the word is `2^k - 1` for its own bit length (R68). -/
theorem smask_eq_self_iff {n : Word} (h : inDomain n = true) : smask n = n ↔ n.toNat = 2 ^ bitLength n - 1 := by
  rw [← BitVec.toNat_inj, smask_toNat h, eq_comm]

/-- An exact mask is its own mask (R66). -/
theorem smask_exactMask {m : Word} {k : Nat} (hk1 : 1 ≤ k) (hk31 : k ≤ 31) (hm : m.toNat = 2 ^ k - 1) : smask m = m := by
  rw [smask_eq_self_iff (inDomain_of_exactMask hk1 hk31 hm), bitLength_of_toNat_eq_two_pow_sub_one hm, hm]

/-- The fixed points of SMASK in its domain are the exact masks (R68). -/
theorem smask_eq_self_iff_exactMask {n : Word} (h : inDomain n = true) :
    smask n = n ↔ ∃ k, 1 ≤ k ∧ n.toNat = 2 ^ k - 1 := by
  obtain ⟨hpos, -⟩ := (inDomain_iff_bitLength n).mp h
  rw [smask_eq_self_iff h]
  constructor
  · exact fun hn => ⟨_, hpos, hn⟩
  · rintro ⟨k, -, hn⟩
    rw [bitLength_of_toNat_eq_two_pow_sub_one hn, hn]

/-- The source's test of an exact mask: the word and its successor share no bit (R68). -/
theorem and_succ_eq_zero_iff {n : Word} (h : inDomain n = true) :
    n &&& (n + 1) = 0 ↔ ∃ k, 1 ≤ k ∧ n.toNat = 2 ^ k - 1 := by
  obtain ⟨hpos, hlen⟩ := (inDomain_iff_bitLength n).mp h
  have hlt := (bitLength_le_iff n 31).mp hlen
  have hne : n.toNat ≠ 0 := fun h0 => ne_zero_of_inDomain h (BitVec.eq_of_toNat_eq h0)
  have hsucc : (n + 1).toNat = n.toNat + 1 := by
    rw [BitVec.toNat_add]
    exact Nat.mod_eq_of_lt (show n.toNat + 1 < 2 ^ 32 by omega)
  have hpower := Nat.and_sub_one_eq_zero_iff_isPowerOfTwo (Nat.succ_ne_zero n.toNat)
  rw [← BitVec.toNat_inj, BitVec.toNat_and, hsucc, Nat.and_comm]
  refine hpower.trans (exists_congr fun k => ?_)
  have hk := Nat.two_pow_pos k
  rcases k.eq_zero_or_pos with rfl | hkpos <;> omega

/-- Every answer in the domain is an exact mask of 1 to 31 ones (R70). -/
theorem smask_is_exactMask {n : Word} (h : inDomain n = true) :
    ∃ k, 1 ≤ k ∧ k ≤ 31 ∧ (smask n).toNat = 2 ^ k - 1 := by
  obtain ⟨hpos, hlen⟩ := (inDomain_iff_bitLength n).mp h
  exact ⟨_, hpos, hlen, smask_toNat h⟩

/-- The answers in the domain lie between 1 and `2^31 - 1` (R67). -/
theorem smask_range {n : Word} (h : inDomain n = true) : 1 ≤ (smask n).toNat ∧ (smask n).toNat ≤ 2 ^ 31 - 1 := by
  obtain ⟨k, hk1, hk31, hmask⟩ := smask_is_exactMask h
  have hlow : 2 ^ 1 ≤ 2 ^ k := Nat.pow_le_pow_right Nat.two_pos hk1
  have hhigh : 2 ^ k ≤ 2 ^ 31 := Nat.pow_le_pow_right Nat.two_pos hk31
  omega

/-- A mask is below twice its word, and meets the bound `2n - 1` at the powers of two alone (R67). -/
theorem smask_le_twice_word {n : Word} (h : inDomain n = true) :
    (smask n).toNat ≤ 2 * n.toNat - 1 ∧ ((smask n).toNat = 2 * n.toNat - 1 ↔ ∃ j, n.toNat = 2 ^ j) := by
  obtain ⟨hpos, -⟩ := (inDomain_iff_bitLength n).mp h
  obtain ⟨j, hj⟩ := Nat.exists_eq_add_of_le' hpos
  obtain ⟨hlow, -⟩ := (bitLength_eq_succ_iff n j).mp hj
  have hdouble : 2 ^ (j + 1) = 2 * 2 ^ j := pow_succ' 2 j
  have hjpos := Nat.two_pow_pos j
  rw [smask_toNat h, hj]
  refine ⟨by omega, fun heq => ⟨j, by omega⟩, ?_⟩
  rintro ⟨i, hi⟩
  have hij : i = j := Nat.succ_injective ((bitLength_of_toNat_eq_two_pow hi).symm.trans hj)
  rw [hij] at hi
  omega

end Sys2Proof.Machine
end

section
/-! SUPPORT. The other datapaths of R64 and R69: all of them but WRAP make the word of as many ones as the operand's bit
length, for every operand. -/

namespace Sys2Proof.Machine

/-- A one shifted up and decremented is a word of ones, the whole word when the one leaves it (R57, R64). -/
theorem one_shiftLeft_sub_one {v : Nat} (hv : 0 < v) (k : Nat) : (1#v <<< k) - 1#v = BitVec.ofNat v (2 ^ k - 1) := by
  have hpower : 1#v <<< k = BitVec.ofNat v (2 ^ k) := by
    rw [← BitVec.twoPow_eq]
    exact BitVec.eq_of_toNat_eq (BitVec.toNat_twoPow v k)
  rw [hpower, BitVec.ofNat_sub_ofNat_of_le _ _ (Nat.one_lt_two_pow hv.ne') Nat.one_le_two_pow]

/-- A word whose bits are 1 exactly below `k` is the word of `k` ones. -/
theorem eq_ofNat_two_pow_sub_one {m : Word} {k : Nat} (h : ∀ i < 32, m.getLsbD i = true ↔ i < k) :
    m = BitVec.ofNat 32 (2 ^ k - 1) := by
  refine BitVec.eq_of_getLsbD_eq fun i hi => ?_
  rw [getLsbD_ofNat_two_pow_sub_one k hi, Bool.eq_iff_iff, decide_eq_true_iff]
  exact h i hi

theorem smaskWide_eq (n : Word) : smaskWide n = BitVec.ofNat 32 (2 ^ bitLength n - 1) := by
  rw [smaskWide, one_shiftLeft_sub_one (by decide), BitVec.setWidth_ofNat_of_le (by decide), smaskWidth_toNat]

theorem smaskZeroShift_eq (n : Word) : smaskZeroShift n = BitVec.ofNat 32 (2 ^ bitLength n - 1) := by
  rw [smaskZeroShift, smaskWidth_toNat]
  exact one_shiftLeft_sub_one (by decide) _

theorem smaskThermometer_eq (n : Word) : smaskThermometer n = BitVec.ofNat 32 (2 ^ bitLength n - 1) :=
  eq_ofNat_two_pow_sub_one fun i hi => by
    rw [smaskThermometer, BitVec.getLsbD_ofFnLE, dif_pos hi, decide_eq_true_iff, smaskWidth_toNat]

theorem smaskShiftDown_eq (n : Word) : smaskShiftDown n = BitVec.ofNat 32 (2 ^ bitLength n - 1) := by
  have hlen := bitLength_le_32 n
  refine eq_ofNat_two_pow_sub_one fun i _ => ?_
  rw [smaskShiftDown, BitVec.getLsbD_ushiftRight, show 0xFFFFFFFF#32 = BitVec.allOnes 32 from rfl,
    BitVec.getLsbD_allOnes, decide_eq_true_iff, smaskCount_toNat]
  omega

/-- What the smear cascade has reached when `m` carries in each bit whether `n` has a bit in the `reach` places from it
on upwards (R69 (b)). -/
def Smeared (reach : Nat) (n m : Word) : Prop :=
  ∀ i, m.getLsbD i = true ↔ ∃ d < reach, n.getLsbD (i + d) = true

theorem smeared_one (n : Word) : Smeared 1 n n := by
  simp [Smeared]

/-- An or-shift step by the reach doubles the reach. -/
theorem smearStep_smeared {c : Nat} {n m : Word} (h : Smeared c n m) : Smeared (2 * c) n (smearStep c m) := by
  intro i
  rw [smearStep, BitVec.getLsbD_or, BitVec.getLsbD_ushiftRight, Bool.or_eq_true, h i, h (c + i)]
  constructor
  · rintro (⟨d, hd, hbit⟩ | ⟨d, hd, hbit⟩)
    · exact ⟨d, by omega, hbit⟩
    · exact ⟨c + d, by omega, by rwa [show i + (c + d) = c + i + d by omega]⟩
  · rintro ⟨d, hd, hbit⟩
    by_cases hlow : d < c
    · exact .inl ⟨d, hlow, hbit⟩
    · exact .inr ⟨d - c, by omega, by rwa [show c + i + (d - c) = i + d by omega]⟩

/-- The five steps reach over the whole word (R69 (b)). -/
theorem smaskSmear_smeared (n : Word) : Smeared 32 n (smaskSmear n) :=
  smearStep_smeared (smearStep_smeared (smearStep_smeared (smearStep_smeared (smearStep_smeared (smeared_one n)))))

theorem smaskSmear_eq (n : Word) : smaskSmear n = BitVec.ofNat 32 (2 ^ bitLength n - 1) := by
  refine eq_ofNat_two_pow_sub_one fun i hi => ?_
  rw [smaskSmear_smeared n i, ← not_le, bitLength_le_iff_bits]
  constructor
  · rintro ⟨d, -, hbit⟩ hzero
    have h32 : i + d < 32 := BitVec.lt_of_getLsbD hbit
    simp [hzero (i + d) (by omega) h32] at hbit
  · intro hsome
    push Not at hsome
    obtain ⟨j, hij, hj, hbit⟩ := hsome
    exact ⟨j - i, by omega, by simpa [show i + (j - i) = j by omega] using hbit⟩

/-- A word with bit 31 set has count 0 (R59). -/
theorem smaskCount_of_bit31 {n : Word} (h : n.getLsbD 31 = true) : smaskCount n = 0 :=
  clz32_of_bit31 h

theorem smaskWrap_zero : smaskWrap 0 = 0 := by
  rw [smaskWrap, (smaskWidth_eq_zero_iff 0).mpr rfl]
  rfl

/-- WRAP drops bit 5 of the width, and so makes the empty mask when bit 31 is set (R64). -/
theorem smaskWrap_of_bit31 {n : Word} (h : n.getLsbD 31 = true) : smaskWrap n = 0 := by
  rw [smaskWrap, smaskWidth_of_bit31 h]
  rfl

end Sys2Proof.Machine
end

section
/-! PROOFS. The statements about SMASK (R57 to R70). -/

namespace Sys2Proof.Machine

open Sys2Proof.Claims

/-- Settles O20: a power of two has one bit, and one less has the bits below it. -/
theorem smaskPowerAndDecrement : Obligations.SmaskPowerAndDecrement := by
  refine ⟨fun w hw1 hw31 => ?_, by decide⟩
  have hw : w.toNat < 32 := by omega
  have hbit31 : (smaskDecrement (smaskPower w)).getLsbD 31 = false := by
    rw [smaskDecrement_smaskPower hw, getLsbD_ofNat_two_pow_sub_one _ (by decide), decide_eq_false_iff_not]
    omega
  refine ⟨smaskPower_toNat hw, fun i hi => getLsbD_smaskPower hw hi, ?_, ?_, fun i hi => ?_, hbit31, ?_⟩
  · rw [smaskPower_toNat hw]
    exact Nat.le_self_pow (by omega) 2
  · rw [smaskDecrement_smaskPower hw, toNat_ofNat_two_pow_sub_one hw.le]
  · rw [smaskDecrement_smaskPower hw, getLsbD_ofNat_two_pow_sub_one _ hi]
  · rw [signedValue_eq, if_neg (Bool.eq_false_iff.mp hbit31)]
    exact Int.natCast_nonneg _

/-- Settles O18: in the domain the contract's shift count is the bit length. -/
theorem smaskMakesTheCoveringMask : Obligations.SmaskMakesTheCoveringMask := by
  intro n s
  obtain ⟨h1, -, h1000⟩ := smask_driver_inputs
  refine ⟨_, exec_next (.smask n) s, rfl, fun hsigned => ?_, smask_of_zero_or_bit31, ?_, ?_, fun j hj hn => ?_,
    fun k hk1 hk31 hn => ?_, ?_⟩
  · have hin := (inDomain_iff_signedValue n).mpr hsigned
    obtain ⟨hpos, hlen⟩ := (inDomain_iff_bitLength n).mp hin
    have hshift : 32 - (clzContract n).toNat = bitLength n := by
      rw [← clz32_eq_clzContract, clz32_toNat]
      omega
    rw [hshift, one_shiftLeft_sub_one (by decide)]
    exact ⟨smask_of_inDomain hin, hpos, hlen⟩
  · rintro rfl
    exact h1
  · rintro rfl
    exact smask_exactMask (m := 0x7FFFFFFF) (k := 31) (by decide) (by decide) rfl
  · have hpower : n.toNat = 2 ^ j := by
      rw [hn, BitVec.toNat_ofNat, Nat.mod_eq_of_lt (Nat.pow_lt_pow_right Nat.one_lt_two (by omega))]
    have hlen := bitLength_of_toNat_eq_two_pow hpower
    have hin : inDomain n = true := (inDomain_iff_bitLength n).mpr ⟨by omega, by omega⟩
    exact hlen ▸ smask_toNat hin
  · exact smask_exactMask hk1 hk31 (hn ▸ toNat_ofNat_two_pow_sub_one (by omega))
  · rintro rfl
    exact h1000

/-- Settles O19: the width is the bit length, in which count, domain and logarithms are all stated. -/
theorem smaskStagesUpToTheWidth : Obligations.SmaskStagesUpToTheWidth := by
  refine ⟨fun n => ⟨rfl, fun hbit => ?_, fun hbit => ⟨?_, (two_pow_31_le_iff n).mpr hbit⟩⟩,
    fun n => ⟨rfl, fun hin => ?_, ?_, smaskCount_of_bit31⟩, fun n => ?_, by decide⟩
  · rw [signedValue_eq, if_neg (Bool.eq_false_iff.mp hbit)]
    rfl
  · rw [signedValue_eq, if_pos hbit, Int.sub_add_cancel]
    rfl
  · obtain ⟨hpos, hlen⟩ := (inDomain_iff_bitLength n).mp hin
    rw [smaskCount_toNat]
    omega
  · rintro rfl
    exact clz32_zero
  · have hlen := bitLength_le_32 n
    have hwidth := smaskWidth_toNat n
    refine ⟨?_, by omega, hwidth, fun hn => ⟨hwidth.trans (bitLength_eq_log hn), hwidth.trans (bitLength_eq_clog n)⟩,
      fun hin => ?_, (smaskWidth_eq_zero_iff n).symm, (smaskWidth_bit5_iff n).symm, smaskWidth_of_bit31⟩
    · rw [hwidth, smaskCount_toNat]
      omega
    · obtain ⟨hpos, hlen31⟩ := (inDomain_iff_bitLength n).mp hin
      refine ⟨by omega, by omega, Bool.eq_false_iff.mpr fun hbit5 => ?_⟩
      exact (inDomain_iff_not n).mp hin (.inr ((smaskWidth_bit5_iff n).mp hbit5))

/-- Settles O21: only outside the domain, where the signed value is not positive, is the free value asked. -/
theorem smaskOutsideItsDomain : Obligations.SmaskOutsideItsDomain := by
  refine ⟨fun n s hout => ?_, fun n => ⟨inDomain_iff_not n, inDomain_iff_signedValue n, ?_⟩,
    fun n ood ood' hin => ?_, fun n ood => smaskWith_of_not_inDomain ood⟩
  · rw [← smask_of_zero_or_bit31 hout]
    exact exec_next (.smask n) s
  · rw [← zero_or_bit31_iff_signedValue, two_pow_31_le_iff, or_assoc, or_self]
  · rw [smaskWith_of_inDomain ood hin, smaskWith_of_inDomain ood' hin]

/-- Settles O22: outside the domain the bit length is 0 or 32, and every reading but WRAP makes as many ones. -/
theorem readingsOutsideTheDomain : Obligations.ReadingsOutsideTheDomain := by
  refine ⟨?_, fun n hbit => ?_, ⟨clz32_zero, fun n => smaskCount_of_bit31⟩,
    fun n s hout => ⟨_, exec_next (.smask n) s, rfl, smask_of_zero_or_bit31 hout⟩⟩
  · have hlen := (bitLength_eq_zero_iff 0).mpr rfl
    rw [smaskWide_eq, smaskZeroShift_eq, smaskSmear_eq, smaskThermometer_eq, hlen]
    exact ⟨rfl, smaskWrap_zero, rfl, rfl, rfl⟩
  · have hlen := (bitLength_eq_32_iff n).mpr hbit
    rw [smaskWide_eq, smaskZeroShift_eq, smaskSmear_eq, smaskThermometer_eq, hlen]
    exact ⟨rfl, smaskWrap_of_bit31 hbit, rfl, rfl, rfl⟩

/-- Settles O23: each closed form is one of the bit length, the least number of bits that the word fits in. -/
theorem smaskClosedForms : Obligations.SmaskClosedForms := by
  intro n s hin
  have hmask := smask_toNat hin
  refine ⟨_, exec_next (.smask n) s, ⟨hmask, bitLength_eq_log (ne_zero_of_inDomain hin)⟩,
    ⟨_, hmask, toNat_lt_two_pow_bitLength n, fun j => (bitLength_le_iff n j).mpr⟩, bitLength_eq_clog n ▸ hmask,
    ⟨le_smask hin, fun k hk => ?_⟩, fun j hj => bitLength_of_toNat_eq_two_pow hj ▸ hmask⟩
  have hfits : bitLength n ≤ k := (bitLength_le_iff n k).mpr (Nat.lt_of_le_sub_one (Nat.two_pow_pos k) hk)
  exact hmask.trans_le (Nat.sub_le_sub_right (Nat.pow_le_pow_right Nat.two_pos hfits) 1)

/-- Settles O24: an exact mask is its own mask, and 1, 3, 7 and 15 are the first four. -/
theorem exactMasksStayFixed : Obligations.ExactMasksStayFixed := by
  intro s
  have hfixed (k : Nat) (hk1 : 1 ≤ k) (hk31 : k ≤ 31) : ∃ t,
      exec (.smask (BitVec.ofNat 32 (2 ^ k - 1))) s = .next t ∧ t.mask = BitVec.ofNat 32 (2 ^ k - 1) :=
    ⟨_, exec_next _ s, smask_exactMask hk1 hk31 (toNat_ofNat_two_pow_sub_one (by omega))⟩
  exact ⟨hfixed, hfixed 1 (by decide) (by decide), hfixed 2 (by decide) (by decide), hfixed 3 (by decide) (by decide),
    hfixed 4 (by decide) (by decide)⟩

/-- Every row of the table of R67 is the interval of the words of its width, and its count is the rest of 32. -/
theorem smaskRows_shape : ∀ r ∈ smaskRows, 1 ≤ r.width.toNat ∧ r.least.toNat = 2 ^ (r.width.toNat - 1) ∧
    r.greatest.toNat = 2 ^ r.width.toNat - 1 ∧ r.count.toNat = 32 - r.width.toNat := by
  decide

/-- The rows of R67 have every width from 1 to 31. -/
theorem smaskRows_cover : ∀ w < 32, 1 ≤ w → ∃ r ∈ smaskRows, r.width.toNat = w := by
  decide

/-- A row's interval holds the words of its width (R67). -/
theorem smaskRow_holds_iff {r : SmaskRow} (hr : r ∈ smaskRows) (n : Word) :
    r.least ≤ n ∧ n ≤ r.greatest ↔ bitLength n = r.width.toNat := by
  obtain ⟨hpos, hleast, hgreatest, -⟩ := smaskRows_shape r hr
  have hlen := bitLength_eq_succ_iff n (r.width.toNat - 1)
  have htwo := Nat.two_pow_pos r.width.toNat
  rw [Nat.sub_add_cancel hpos] at hlen
  rw [BitVec.le_def, BitVec.le_def, hleast, hgreatest, hlen]
  omega

/-- Settles O25: the bounds on the word of ones, and the rows as the bit lengths 1 to 31. -/
theorem smaskRangeAndTable : Obligations.SmaskRangeAndTable := by
  refine ⟨fun n s hin => ?_, fun n hin => ?_⟩
  · obtain ⟨htwice, htwice_iff⟩ := smask_le_twice_word hin
    obtain ⟨hpos, hmax⟩ := smask_range hin
    refine ⟨_, exec_next (.smask n) s, le_smask hin, htwice,
      BitVec.toNat_inj.trans (smask_eq_self_iff_exactMask hin), htwice_iff, hpos, hmax, smask_is_exactMask hin, ?_,
      fun r hr hleast hgreatest => ?_⟩
    · exact getLsbD_of_toNat_lt (Nat.lt_of_le_sub_one (by decide) hmax) le_rfl
    · have hlen := (smaskRow_holds_iff hr n).mp ⟨hleast, hgreatest⟩
      obtain ⟨-, -, hmask, hcount⟩ := smaskRows_shape r hr
      refine ⟨BitVec.eq_of_toNat_eq ((smaskWidth_toNat n).trans hlen), BitVec.eq_of_toNat_eq ?_,
        BitVec.eq_of_toNat_eq ?_⟩
      · rw [smaskCount_toNat, hlen, hcount]
      · exact (smask_toNat hin).trans (by rw [hlen, hmask])
  · obtain ⟨hpos, hlen⟩ := (inDomain_iff_bitLength n).mp hin
    obtain ⟨r, hr, hwidth⟩ := smaskRows_cover (bitLength n) (Nat.lt_succ_of_le hlen) hpos
    exact ⟨r, hr, (smaskRow_holds_iff hr n).mpr hwidth.symm⟩

/-- Settles O26: masks rise with the bit length, which rises with the word, and only across a power of two. -/
theorem smaskTestableProperties : Obligations.SmaskTestableProperties := by
  constructor
  · intro n s s' hin
    have hfixed := smask_eq_self_iff_exactMask hin
    obtain ⟨htwice, -⟩ := smask_le_twice_word hin
    refine ⟨_, _, exec_next (.smask n) s, exec_next (.smask n) s', ?_, le_smask hin, ?_,
      hfixed.trans (and_succ_eq_zero_iff hin).symm, hfixed, rfl⟩
    · rw [answerSmask_mask, smask_toNat hin, smaskWidth_toNat, Nat.sub_add_cancel Nat.one_le_two_pow]
    · rw [answerSmask_mask]
      omega
  · intro m n s hm hn hle
    have hlen : bitLength m ≤ bitLength n :=
      (bitLength_le_iff m _).mpr (hle.trans_lt (toNat_lt_two_pow_bitLength n))
    refine ⟨_, _, exec_next (.smask m) s, exec_next (.smask n) s, ?_, fun hne => ?_⟩
    · rw [answerSmask_mask, answerSmask_mask, smask_toNat hm, smask_toNat hn]
      exact Nat.sub_le_sub_right (Nat.pow_le_pow_right Nat.two_pos hlen) 1
    · refine ⟨bitLength m, toNat_lt_two_pow_bitLength m, not_lt.mp fun hlt => hne ?_⟩
      have hsame : bitLength m = bitLength n := hlen.antisymm ((bitLength_le_iff n _).mpr hlt)
      rw [answerSmask_mask, answerSmask_mask, smask_of_inDomain hm, smask_of_inDomain hn, hsame]

/-- Settles O27: each datapath makes as many ones as the operand's bit length. -/
theorem equivalentMaskDatapaths : Obligations.EquivalentMaskDatapaths := by
  intro n s hin
  have hmask := smask_of_inDomain hin
  exact ⟨_, exec_next (.smask n) s, (smaskShiftDown_eq n).trans hmask.symm, (smaskSmear_eq n).trans hmask.symm,
    (smaskThermometer_eq n).trans hmask.symm⟩

/-- Settles O28: a result is an exact mask, and an exact mask is in the domain and its own mask. -/
theorem smaskIsIdempotent : Obligations.SmaskIsIdempotent := by
  refine ⟨fun n s hin => ?_, fun m k s hk1 hk31 hm =>
    ⟨inDomain_of_exactMask hk1 hk31 hm, _, exec_next (.smask m) s, smask_exactMask hk1 hk31 hm⟩⟩
  obtain ⟨k, hk1, hk31, hmask⟩ := smask_is_exactMask hin
  obtain ⟨hpos, hmax⟩ := smask_range hin
  exact ⟨_, _, exec_next (.smask n) s, exec_next (.smask _) _, smask_exactMask hk1 hk31 hmask,
    inDomain_of_exactMask hk1 hk31 hmask, hpos, hmax, k, hk1, hk31, hmask⟩

end Sys2Proof.Machine
end

section
/-! SUPPORT. Well-formedness of lines and scripts in terms of the names a state has bound (R37), and what performing a
line does to what well-formedness reads: the script, the base address and the bound names. -/

namespace Sys2Proof.Machine

/-- The bound names of a state, as `ScriptSafe` reads them. -/
def boundNames (s : State) : List Name :=
  s.names.map Prod.fst

theorem scriptSafe_iff (s : State) : ScriptSafe s ↔ scriptWellFormed s.outBase (boundNames s) s.script = true :=
  Iff.rfl

/-- A key is listed exactly when looking it up finds a value. -/
theorem mem_keys_iff_assocFind {α : Type} (k : Nat) (l : List (Nat × α)) :
    k ∈ l.map Prod.fst ↔ ∃ v, assocFind k l = some v := by
  induction l with
  | nil => simp [assocFind]
  | cons e rest ih =>
    obtain ⟨k', v⟩ := e
    rw [List.map_cons, List.mem_cons, ih]
    by_cases hk : k = k' <;> simp [assocFind, hk]

/-- The bound names are the names that read as a word. -/
theorem mem_boundNames_iff (r : Name) (s : State) : r ∈ boundNames s ↔ ∃ w, boundWord r s = some w :=
  mem_keys_iff_assocFind r s.names

/-- Binding adds the destination, if there is one, to the bound names and takes none away. -/
theorem mem_boundNames_bindName_iff (r : Name) (dest : Option Name) (w : Word) (s : State) :
    r ∈ boundNames (bindName dest w s) ↔ dest = some r ∨ r ∈ boundNames s := by
  cases dest with
  | none => simp
  | some r' =>
    rw [mem_boundNames_iff, mem_boundNames_iff, Option.some_inj]
    by_cases hr : r = r'
    · subst hr
      simp [boundWord_bindName_self]
    · simp [boundWord_bindName_of_ne hr, Ne.symm hr]

/-! What the checks ask for. -/

theorem mem_boundAfter_iff (r : Name) (l : Line) (bound : List Name) :
    r ∈ boundAfter l bound ↔ lineBinds l = some r ∨ r ∈ bound := by
  unfold boundAfter
  cases lineBinds l <;> simp [eq_comm]

theorem operandWellFormed_iff (bound : List Name) (op : Operand) :
    operandWellFormed bound op = true ↔ ∀ r, op = .name r → r ∈ bound := by
  cases op <;> simp [operandWellFormed]

theorem lineWellFormed_store_iff (outBase : Nat) (bound : List Name) (offset : Nat) (src : Name) :
    lineWellFormed outBase bound (.store offset src) = true ↔
      src ∈ bound ∧ (outBase + offset) % 4 = 0 ∧ hostDefines outBase (outBase + offset) = true := by
  simp [lineWellFormed, and_assoc]

theorem scriptWellFormed_cons_iff (outBase : Nat) (bound : List Name) (l : Line) (rest : Script) :
    scriptWellFormed outBase bound (l :: rest) = true ↔
      lineWellFormed outBase bound l = true ∧ scriptWellFormed outBase (boundAfter l bound) rest = true := by
  simp [scriptWellFormed]

/-- A line drives a port or is a STORE line. -/
theorem lineOperand_or_store (l : Line) :
    (∃ p op, lineOperand l = some (p, op)) ∨ ∃ offset src, l = .store offset src := by
  cases l with
  | clz32 dest op => exact .inl ⟨.x, op, rfl⟩
  | smask dest op => exact .inl ⟨.n, op, rfl⟩
  | bitlen dest op => exact .inl ⟨.x, op, rfl⟩
  | store offset src => exact .inr ⟨offset, src, rfl⟩

/-- A line that drives a port is as well formed as its operand. -/
theorem lineWellFormed_of_lineOperand {l : Line} {p : InPort} {op : Operand} (h : lineOperand l = some (p, op))
    (outBase : Nat) (bound : List Name) : lineWellFormed outBase bound l = operandWellFormed bound op := by
  cases l <;> cases h <;> rfl

/-! More bound names do no harm. -/

theorem operandWellFormed_mono {bound bound' : List Name} (hsub : bound ⊆ bound') {op : Operand}
    (h : operandWellFormed bound op = true) : operandWellFormed bound' op = true := by
  rw [operandWellFormed_iff] at h ⊢
  exact fun r hr => hsub (h r hr)

theorem lineWellFormed_mono {outBase : Nat} {bound bound' : List Name} (hsub : bound ⊆ bound') {l : Line}
    (h : lineWellFormed outBase bound l = true) : lineWellFormed outBase bound' l = true := by
  obtain ⟨p, op, hline⟩ | ⟨offset, src, rfl⟩ := lineOperand_or_store l
  · rw [lineWellFormed_of_lineOperand hline] at h ⊢
    exact operandWellFormed_mono hsub h
  · rw [lineWellFormed_store_iff] at h ⊢
    exact h.imp_left fun hsrc => hsub hsrc

theorem boundAfter_mono {bound bound' : List Name} (hsub : bound ⊆ bound') (l : Line) :
    boundAfter l bound ⊆ boundAfter l bound' := by
  intro r hr
  rw [mem_boundAfter_iff] at hr ⊢
  exact hr.imp_right fun hbound => hsub hbound

theorem scriptWellFormed_mono {outBase : Nat} {bound bound' : List Name} (hsub : bound ⊆ bound') {script : Script}
    (h : scriptWellFormed outBase bound script = true) : scriptWellFormed outBase bound' script = true := by
  induction script generalizing bound bound' with
  | nil => rfl
  | cons l rest ih =>
    rw [scriptWellFormed_cons_iff] at h ⊢
    exact h.imp (lineWellFormed_mono hsub) (ih (boundAfter_mono hsub l))

/-! Progress: a well-formed line completes. -/

/-- A well-formed operand has a value (R37). -/
theorem operandValue_of_wellFormed {op : Operand} {s : State} (h : operandWellFormed (boundNames s) op = true) :
    ∃ w, operandValue op s = .ok w := by
  cases op with
  | lit w => exact ⟨w, rfl⟩
  | name r =>
    obtain ⟨w, hw⟩ := (mem_boundNames_iff r s).mp ((operandWellFormed_iff _ _).mp h r rfl)
    exact ⟨w, (operandValue_ok_iff _ s w).mpr (.inr ⟨r, rfl, hw⟩)⟩

/-- A well-formed line has a value to evaluate, or a bound name to store at an allowed address. -/
theorem runLine_of_wellFormed {l : Line} {s : State} (h : lineWellFormed s.outBase (boundNames s) l = true) :
    ∃ t, runLine l s = .next t := by
  obtain ⟨p, op, hline⟩ | ⟨offset, src, rfl⟩ := lineOperand_or_store l
  · rw [lineWellFormed_of_lineOperand hline] at h
    obtain ⟨w, hw⟩ := operandValue_of_wellFormed h
    rw [runLine_of_lineOperand hline]
    exact ⟨_, evaluate_of_operandValue l hw (exec_next _ s)⟩
  · obtain ⟨hsrc, haligned, hdefined⟩ := (lineWellFormed_store_iff _ _ _ _).mp h
    obtain ⟨v, hv⟩ := (mem_boundNames_iff src s).mp hsrc
    refine ⟨_, Eq.trans ?_ (memWrite_of_defined (v := v) haligned hdefined)⟩
    simp only [runLine, storeNamed, hv, storeAddress]

/-! Preservation: what well-formedness reads, after a line. -/

/-- What a line leaves for the lines after it: their script and base address as they were, and at least the names that
well-formedness counts on. -/
structure LineLeaves (l : Line) (s t : State) : Prop where
  script : t.script = s.script
  outBase : t.outBase = s.outBase
  names : boundAfter l (boundNames s) ⊆ boundNames t

/-- Taking a line's answer binds the name that the line binds. -/
theorem takeAnswer_eq_bindName (l : Line) (t : State) : ∃ w, takeAnswer l t = bindName (lineBinds l) w t := by
  cases l with
  | clz32 dest op => exact ⟨_, rfl⟩
  | smask dest op => exact ⟨_, rfl⟩
  | bitlen dest op => exact ⟨_, rfl⟩
  | store offset src => exact ⟨0, rfl⟩

theorem takeAnswer_leaves (l : Line) (s : State) : LineLeaves l s (takeAnswer l s) := by
  obtain ⟨w, hw⟩ := takeAnswer_eq_bindName l s
  rw [hw]
  refine ⟨bindName_script _ _ _, bindName_outBase _ _ _, fun r hr => ?_⟩
  exact (mem_boundNames_bindName_iff r _ w s).mpr ((mem_boundAfter_iff r l _).mp hr)

/-- The block reads and writes ports only, so what a line leaves does not depend on its evaluation (R21). -/
theorem evaluate_leaves {l : Line} {p : InPort} {op : Operand} {s t : State} (h : evaluate l p op s = .next t) :
    LineLeaves l s t := by
  obtain ⟨w, u, -, hu, rfl⟩ := evaluate_next h
  obtain ⟨hscript, houtBase, hnames⟩ := takeAnswer_leaves l u
  rw [exec_next] at hu
  cases p <;> cases hu <;> exact ⟨hscript, houtBase, hnames⟩

theorem runLine_leaves {l : Line} {s t : State} (h : runLine l s = .next t) : LineLeaves l s t := by
  obtain ⟨p, op, -, hevaluate⟩ | ⟨offset, src, rfl, hstore⟩ := runLine_next h
  · exact evaluate_leaves hevaluate
  · obtain ⟨v, -, hwrite⟩ := storeNamed_next hstore
    obtain ⟨-, -, rfl⟩ := memWrite_next hwrite
    exact ⟨rfl, rfl, List.Subset.refl _⟩

end Sys2Proof.Machine
end

section
/-! PROOFS. A well-formed script runs to its end, since each of its lines completes and leaves the rest well formed
(R71, R25). -/

namespace Sys2Proof.Machine

/-- Progress and preservation of one step, in the base address that no step changes. -/
theorem step_of_scriptSafe {s : State} {l : Line} {rest : Script} (hsafe : ScriptSafe s)
    (hscript : s.script = l :: rest) :
    ∃ t, step s = .next t ∧ ScriptSafe t ∧ t.script = rest ∧ t.outBase = s.outBase := by
  rw [scriptSafe_iff, hscript, scriptWellFormed_cons_iff] at hsafe
  obtain ⟨hline, hrest⟩ := hsafe
  obtain ⟨t, ht⟩ := runLine_of_wellFormed (s := setScript rest s) hline
  obtain ⟨htscript, htbase, htnames⟩ := runLine_leaves ht
  refine ⟨t, (step_of_script hscript).trans ht, ?_, htscript, htbase⟩
  rw [scriptSafe_iff, htscript, htbase]
  exact scriptWellFormed_mono htnames hrest

theorem run_of_scriptSafe (script : Script) {s : State} (hsafe : ScriptSafe s) (hscript : s.script = script) :
    ∃ t : State, Host.Core.run Sys2Proof.core script.length s = .next t ∧ t.script = [] ∧ t.outBase = s.outBase := by
  induction script generalizing s with
  | nil => exact ⟨s, rfl, hscript, rfl⟩
  | cons l rest ih =>
    obtain ⟨u, hu, husafe, huscript, hubase⟩ := step_of_scriptSafe hsafe hscript
    obtain ⟨t, ht, htscript, htbase⟩ := ih husafe huscript
    exact ⟨t, (run_succ_of_step rest.length hu).trans ht, htscript, htbase.trans hubase⟩

/-- Settles O44: progress and preservation of a step, and the induction over the lines that they carry. -/
theorem wellFormedScriptNeverStops : Obligations.WellFormedScriptNeverStops := by
  refine ⟨fun s hsafe hleft => ?_, fun s hsafe => run_of_scriptSafe s.script hsafe rfl⟩
  obtain ⟨l, rest, hscript⟩ := List.exists_cons_of_ne_nil hleft
  obtain ⟨t, ht, htsafe, htscript, -⟩ := step_of_scriptSafe hsafe hscript
  exact ⟨t, ht, htsafe, by rw [htscript, hscript, List.tail_cons]⟩

end Sys2Proof.Machine
end

section
/-! PROOFS. No exception, and no port that reports the domain (R71, R72). -/

namespace Sys2Proof.Machine

/-- Settles O29: each operation answers its word (R71), and the table of causes is empty, so no fault exists that a step
could end in. -/
theorem nothingRaisesAnException : Obligations.NothingRaisesAnException :=
  ⟨fun i s => ⟨_, exec_next i s⟩, fun _ f => nomatch f⟩

/-- Settles O30: the domain is what R63 leaves, and two evaluations of SMASK write its two ports only. -/
theorem domainIsComputableFromTheInput : Obligations.DomainIsComputableFromTheInput := by
  refine ⟨fun n => ?_, fun n n' s => ⟨_, _, exec_next (.smask n) s, exec_next (.smask n') s, rfl⟩⟩
  rw [inDomain_iff_not, not_or, Bool.not_eq_true, and_comm]

end Sys2Proof.Machine
end

section
/-! PROOFS. The environment's stops besides the misaligned store: each is a step whose line, or whose missing line, is
refused under its own name (U4). -/

namespace Sys2Proof.Machine

/-- Above the base, the memory map defines the three offsets of R23 and no other. -/
theorem hostDefines_add_iff (outBase offset : Nat) :
    hostDefines outBase (outBase + offset) = true ↔ offset = 4 ∨ offset = 8 ∨ offset = 12 := by
  simp [hostDefines, or_assoc]

/-- A word store at an aligned address outside the map is refused (U4). -/
theorem memWrite_of_not_defined {addr : Nat} (v : Word) {s : State} (h4 : addr % 4 = 0)
    (hd : hostDefines s.outBase addr = false) : memWrite addr v s = .refused (.addressNotDefined addr) := by
  rw [memWrite, if_neg (not_not_intro h4), if_pos hd]

/-- A STORE line of a bound name is refused at every aligned address but the map's three. -/
theorem step_store_of_not_defined {offset : Nat} {src : Name} {v : Word} (rest : Script) {s : State}
    (hv : boundWord src s = some v) (haligned : storeAddress s offset % 4 = 0)
    (hoffset : ¬(offset = 4 ∨ offset = 8 ∨ offset = 12)) :
    step (setScript (.store offset src :: rest) s) = .refused (.addressNotDefined (storeAddress s offset)) := by
  have hundefined : hostDefines s.outBase (storeAddress s offset) = false :=
    Bool.eq_false_iff.mpr (mt (hostDefines_add_iff s.outBase offset).mp hoffset)
  rw [step_store_of_bound offset rest hv]
  exact memWrite_of_not_defined v haligned hundefined

/-- A STORE line of a name that nothing has bound is refused, whatever its address. -/
theorem step_store_of_unbound (offset : Nat) {r : Name} (rest : Script) {s : State} (hr : boundWord r s = none) :
    step (setScript (.store offset r :: rest) s) = .refused (.unboundName r) := by
  have hbound : boundWord r (setScript rest s) = none := hr
  rw [step_of_script (setScript_script _ s), setScript_setScript]
  simp only [runLine, storeNamed, hbound]

/-- A name that nothing has bound has no value as an operand (R37). -/
theorem operandValue_of_unbound {r : Name} {s : State} (hr : boundWord r s = none) :
    operandValue (.name r) s = .error r := by
  simp only [operandValue, hr]

/-- A line that would present a name that nothing has bound is refused: it has no word to drive its port with. -/
theorem step_of_lineOperand_unbound {l : Line} {p : InPort} {r : Name} (rest : Script) {s : State}
    (hline : lineOperand l = some (p, .name r)) (hr : boundWord r s = none) :
    step (setScript (l :: rest) s) = .refused (.unboundName r) := by
  have hvalue : operandValue (.name r) (setScript rest s) = .error r := operandValue_of_unbound hr
  rw [step_of_script (setScript_script _ s), setScript_setScript, runLine_of_lineOperand hline]
  simp only [evaluate, hvalue]

/-- With no line left nothing is presented (R85). -/
theorem step_of_script_nil {s : State} (hscript : s.script = []) : step s = .refused .nothingPresented := by
  simp only [step, environmentStep, hscript]

/-- Settles O38: the map's test is the last of a word store, an unbound name stops a line before anything is presented
or stored, and an empty script has no line. -/
theorem otherEnvironmentStops : Obligations.OtherEnvironmentStops := by
  refine ⟨fun s offset src v rest hv haligned h4 h8 h12 => ?_, fun s r offset dest rest hr => ?_,
    fun s => step_of_script_nil rfl⟩
  · exact step_store_of_not_defined rest hv haligned (not_or.mpr ⟨h4, not_or.mpr ⟨h8, h12⟩⟩)
  · exact ⟨step_store_of_unbound offset rest hr, step_of_lineOperand_unbound rest rfl hr,
      step_of_lineOperand_unbound rest rfl hr, step_of_lineOperand_unbound rest rfl hr⟩

end Sys2Proof.Machine
end
